-- ==== Sys2Proof/Word.lean ====
section
/-! DEFINITION. The word types of NHLC (spec/00_scope.md R8: every value is unsigned, bit 0 is the least
significant bit) and the field of a byte. -/

namespace Sys2Proof

/-- One byte of IMG, of the header or of the footer. -/
abbrev Byte := BitVec 8

/-- The width of offsets, lengths and FILE_LEN (R6, ADDR_WIDTH). -/
abbrev Addr := BitVec 64

/-- A header: sixteen bytes, `h[n]` the document's "byte n" (R8, R11). -/
abbrev Header := Vector Byte 16

/-- The 26 bytes of a footer candidate, `F[k]` the byte at relative offset `k` (R71, R163). -/
abbrev FooterBytes := Vector Byte 26

end Sys2Proof
end

