-- ==== Sys2Proof/Config.lean ====
section
/-! DEFINITION. What an implementation fixes and the spec leaves open (00_scope.md R7), and the model's free
values. The parameters the spec gives a value to stand in Machine/Params.lean. -/

namespace Sys2Proof

/-- Which byte of each 16-bit footer checksum is the high-order one (R7, FTR_SUM_ORDER). -/
inductive SumOrder where
  | byte0High
  | byte1High
  deriving DecidableEq, Repr, Inhabited

/-- The byte offsets, inside the footer, of the fields the document names without an offset
(R7, FTR_LAYOUT). -/
structure FtrLayout where
  size  : Fin 26
  board : Fin 26
  enc   : Fin 26
  tlen  : Fin 26
  maker : Fin 26
  cksum : Fin 26
  deriving DecidableEq, Repr

/-- The configuration record of a block: the open parameter a model may be given another value of than the spec's
default (R7). It is fixed when the block is built; State carries it and no step changes it (log 9). -/
structure Configuration where
  ftrLayout : FtrLayout
  deriving DecidableEq, Repr

/-- EXPDEV_KNOWN_MAX, 0 to 254, with no default (R7, 92 D18): nothing can evaluate it, so a claim holds for
every value. Log 7. -/
opaque Config.expdevKnownMax : Fin 255

/-- FTR_SUM_ORDER, open; no rule of the spec depends on it (R7, R43, R171, 92 D28). Log 8. -/
opaque Config.ftrSumOrder : SumOrder

/-- The free values: what an unspecified register holds or reads as (00_scope.md R9 "unspecified", 10_state.md R24,
R27, 93 U7, U10). The first argument is State's counter `draw`, the second the register's number. Nothing can
evaluate it. Log 4. -/
opaque Config.unspecified : Nat → BitVec 8 → BitVec 64

end Sys2Proof
end

