-- ==== Sys2Proof/Machine/Params.lean ====
section
/-! DEFINITION. The parameters the spec gives a value to (00_scope.md R6, and R7 with its defaults). They stand in
this folder so that a later repair may mend one. -/

namespace Sys2Proof.Machine

/-- HEADER_LEN (R6). -/
def headerLen : Nat := 16
/-- TRAINER_LEN (R6). -/
def trainerLen : Nat := 512
/-- PRG_UNIT (R6). -/
def prgUnit : Nat := 16384
/-- CHR_UNIT (R6). -/
def chrUnit : Nat := 8192
/-- SIZE_SENTINEL (R6). -/
def sizeSentinel : BitVec 4 := 15
/-- EXP_MAX (R6). -/
def expMax : Nat := 61
/-- RAM_UNIT (R6). -/
def ramUnit : Nat := 64
/-- FOOTER_LEN (R6). -/
def footerLen : Nat := 26
/-- FOOTER_MIN_PRG (R6). -/
def footerMinPrg : Nat := 32
/-- FOOTER_BACK: 26 is the document's value and normative (R6, R7, 92 D24). Log 10. -/
def footerBack : Nat := 26
/-- FTR_LAYOUT's default (R7, R71, 92 D26), the value after reset; every definition takes the layout from the
configuration. Log 9. -/
def ftrLayoutDefault : FtrLayout where
  size := 0x14
  board := 0x15
  enc := 0x16
  tlen := 0x17
  maker := 0x18
  cksum := 0x19
/-- FTR_SIZE_TABLE in KiB (R6, 30_encoding.md R72). -/
def sizeTableKiB (i : BitVec 3) : Nat :=
  match i.toNat with
  | 0 => 8
  | 1 => 16
  | 2 => 32
  | 3 => 128
  | 4 => 256
  | 5 => 512
  | 6 => 1024
  | _ => 2048

end Sys2Proof.Machine
end

