-- ==== Sys2Proof/Machine/State.lean ====
section
/-! DEFINITION. The state of the block (10_state.md) with the host's image memory, the host's transactions and the
configuration, as plain data; why a step can stop; the state after reset. -/

namespace Sys2Proof.Machine

/-- STATUS, register 0x02 (10_state.md R14), by its fields; bits 15:11 are not stored and read as 0
(`Status.word` in Machine/Flags.lean). -/
structure Status where
  hdrValid       : Bool
  infoValid      : Bool
  segValid       : Bool
  ftrDone        : Bool
  ftrPresent     : Bool
  trunc          : Bool
  miscDeclAbsent : Bool
  err            : Bool
  errCode        : BitVec 3
  deriving DecidableEq, Repr

/-- The INFO registers 0x20 to 0x34, the document's NesHeaderInfo (10_state.md R18). -/
structure Info where
  mapper            : BitVec 16
  submapper         : BitVec 8
  isExtended        : Bool
  isPalLegacy       : Bool
  prgSize           : BitVec 64
  chrSize           : BitVec 64
  prgRamSize        : BitVec 32
  chrRamSize        : BitVec 32
  prgSaveRamSize    : BitVec 32
  chrSaveRamSize    : BitVec 32
  mirroring         : BitVec 1
  hasFourScreenVram : Bool
  hasBattery        : Bool
  hasTrainer        : Bool
  frameTiming       : BitVec 2
  consoleType       : BitVec 2
  consoleSub2       : BitVec 4
  consoleSub3       : BitVec 4
  miscRomCount      : BitVec 2
  expansionDevice   : BitVec 8
  prgRamSize8k      : BitVec 8
  deriving DecidableEq, Repr

/-- One segment descriptor, three registers (10_state.md R20). -/
structure SegDesc where
  offset  : Addr
  length  : Addr
  present : Bool
  deriving DecidableEq, Repr

/-- The FTR registers 0x60 to 0x7E, the document's FooterHeader and the candidate's offset (10_state.md R22). -/
structure Ftr where
  offset    : Addr
  title     : Vector Byte 16
  titleLen  : BitVec 8
  titleEnc  : BitVec 8
  sum1B0    : BitVec 8
  sum1B1    : BitVec 8
  sum2B0    : BitVec 8
  sum2B1    : BitVec 8
  prgSize   : BitVec 32
  chrSize   : BitVec 32
  chrRam    : Bool
  mirroring : BitVec 1
  mapper    : BitVec 8
  maker     : BitVec 8
  checksum  : BitVec 8
  sizeCode  : BitVec 8
  deriving DecidableEq, Repr

/-- IMG: the bytes the host has placed, addresses strictly rising (20_memory.md R40). An address that is not listed
has no value (R42, 70_reset R215; log 3). -/
abbrev Memory := List Host.Cell

/-- What reaches the block from outside, each indivisible with respect to commands (20_memory.md R46). -/
inductive HostTxn where
  /-- WriteReg(no, data64); a write to CMD is `Command(c)` (R46, 10_state.md R16, R24). -/
  | writeReg (no : BitVec 8) (data : BitVec 64)
  /-- ReadReg(no) (R46, 10_state.md R24). -/
  | readReg (no : BitVec 8)
  /-- The host places bytes in IMG at consecutive addresses (20_memory.md R40, R50; `.img` of 30_encoding.md R59). -/
  | imgPlace (addr : Addr) (bytes : List Byte)
  /-- The platform's reset (70_reset R210). -/
  | reset
  deriving DecidableEq, Repr

/-- The machine: the block's registers (10_state.md R10), the host's IMG, and four fields of the model's own. -/
structure State where
  /-- FILE_LEN, register 0x00 (R17). -/
  fileLen : Addr
  /-- STATUS, register 0x02 (R14). -/
  status : Status
  /-- HDR[0..15], registers 0x10 to 0x1F (R11). -/
  hdr : Header
  /-- The INFO registers (R18). -/
  info : Info
  /-- SEG[0..4]: Header, Trainer, ProgramRom, CharacterRom, Miscellaneous (R20, R21). -/
  seg : Vector SegDesc 5
  /-- The FTR registers (R22). -/
  ftr : Ftr
  /-- IMG (R23), the host's. -/
  img : Memory
  /-- The model's own: the transactions still to come, oldest first (log 1). -/
  port : List HostTxn
  /-- The model's own: what the last ReadReg returned to the host (R46; log 5). -/
  rdata : BitVec 64
  /-- The model's own: which free value comes next (log 4). -/
  draw : Nat
  /-- The model's own: the configuration record, which no step changes (00_scope.md R7, 10_state.md R10; log 9). -/
  config : Configuration
  deriving DecidableEq, Repr

/-- Why the machine stops: each is where the spec says a model has no step. None is one of the block's own faults
(60_exceptions.md R191), which are next states. -/
inductive Fault where
  /-- A MemRead past FILE_LEN (20_memory.md R42: "a model must have no step for such a read"). Raised by FOOTER
  only, in states no run reaches (R44). Safe: the machine stops. -/
  | imgBeyondFileLen
  /-- An address below FILE_LEN that the host never filled: FILE_LEN exceeds what the host placed (70_reset R215: "a
  model must give such a run no result"; 92 D38). Raised by LDHDR, LAYOUT and RESOLVE, the commands that take FILE_LEN,
  and by FOOTER for a byte it fetches, only in states no run reaches. Safe: the machine stops. -/
  | imgNotPlaced
  /-- The host places a byte past the last 64-bit address (20_memory.md R40; log 6). Raised by `imgPlace`. Safe: the
  machine stops. -/
  | imgNoSuchAddress
  deriving DecidableEq, Repr

/-- Why an instruction is refused. -/
inductive Refusal where
  /-- The instruction has no meaning in the model yet. Raised by no arm of exec: every command has its meaning.
  Safe: the machine stops. -/
  | notModelled (mnemonic : String)
  deriving DecidableEq, Repr

/-- STATUS = 0x0000 (R27). -/
def Status.zero : Status where
  hdrValid := false
  infoValid := false
  segValid := false
  ftrDone := false
  ftrPresent := false
  trunc := false
  miscDeclAbsent := false
  err := false
  errCode := 0

/-- DESIGN CHOICE (log 2): what the INFO registers hold at reset, where R27 says "unspecified". -/
def Info.zero : Info where
  mapper := 0
  submapper := 0
  isExtended := false
  isPalLegacy := false
  prgSize := 0
  chrSize := 0
  prgRamSize := 0
  chrRamSize := 0
  prgSaveRamSize := 0
  chrSaveRamSize := 0
  mirroring := 0
  hasFourScreenVram := false
  hasBattery := false
  hasTrainer := false
  frameTiming := 0
  consoleType := 0
  consoleSub2 := 0
  consoleSub3 := 0
  miscRomCount := 0
  expansionDevice := 0
  prgRamSize8k := 0

/-- DESIGN CHOICE (log 2): what the FTR registers hold at reset, where R27 says "unspecified". -/
def Ftr.zero : Ftr where
  offset := 0
  title := Vector.replicate 16 0
  titleLen := 0
  titleEnc := 0
  sum1B0 := 0
  sum1B1 := 0
  sum2B0 := 0
  sum2B1 := 0
  prgSize := 0
  chrSize := 0
  chrRam := false
  mirroring := 0
  mapper := 0
  maker := 0
  checksum := 0
  sizeCode := 0

/-- The state right after reset (10_state.md R27, 70_reset R210): STATUS and FILE_LEN 0; HDR, INFO, SEG and FTR,
which the spec leaves unspecified, at the values log 2 names; no byte of IMG placed; nothing pending; the
configuration at the spec's defaults. -/
def State.reset : State where
  fileLen := 0
  status := Status.zero
  hdr := Vector.replicate 16 0
  info := Info.zero
  seg := Vector.replicate 5 ⟨0, 0, false⟩
  ftr := Ftr.zero
  img := []
  port := []
  rdata := 0
  draw := 0
  config := { ftrLayout := ftrLayoutDefault }

end Sys2Proof.Machine
end

