-- ==== Sys2Proof/Machine/Flags.lean ====
section
/-! DEFINITION. Every computation of STATUS: the register's word (10_state.md R14) and what each event writes to its
fields (R15, R17, 60_exceptions.md R193). -/

namespace Sys2Proof.Machine

/-- STATUS as the 16-bit register the host reads (R14): bit 0 is HDR_VALID, bits 15:11 are 0. -/
def Status.word (st : Status) : BitVec 16 :=
  0#5 ++ st.errCode ++ BitVec.ofBool st.err ++ BitVec.ofBool st.miscDeclAbsent ++ BitVec.ofBool st.trunc
    ++ BitVec.ofBool st.ftrPresent ++ BitVec.ofBool st.ftrDone ++ BitVec.ofBool st.segValid
    ++ BitVec.ofBool st.infoValid ++ BitVec.ofBool st.hdrValid

/-- The block's faults (60_exceptions.md R191). -/
inductive BlockFault where
  | illegalCommand
  | sequence
  | shortImage
  deriving DecidableEq, Repr

/-- ERRCODE of a fault (R14, R191). -/
def faultCode (f : BlockFault) : BitVec 3 :=
  match f with
  | .illegalCommand => 1
  | .sequence => 2
  | .shortImage => 3

/-- `raise <Fault>`: ERR and ERRCODE, no other bit (60_exceptions.md R193). -/
def Status.raised (st : Status) (f : BlockFault) : Status :=
  { st with err := true, errCode := faultCode f }

/-- The results of LAYOUT and FOOTER are no longer valid: SEG_VALID, FTR_DONE, FTR_PRESENT, TRUNC and
MISC_DECL_ABSENT are cleared (R15; the host's write of FILE_LEN, R17). -/
def Status.segCleared (st : Status) : Status :=
  { st with segValid := false, ftrDone := false, ftrPresent := false, trunc := false, miscDeclAbsent := false }

/-- A completed LDHDR (40_control.md R93). -/
def Status.afterLdhdr (st : Status) : Status :=
  { st.segCleared with hdrValid := true, infoValid := false }

/-- A completed DECODE (41_decode.md R100). -/
def Status.afterDecode (st : Status) : Status :=
  { st.segCleared with infoValid := true }

/-- A completed LAYOUT (42_layout.md R140). -/
def Status.afterLayout (st : Status) (trunc miscDeclAbsent : Bool) : Status :=
  { st with trunc, miscDeclAbsent, segValid := true, ftrDone := false, ftrPresent := false }

/-- A completed FOOTER (43_footer.md R160). -/
def Status.afterFooter (st : Status) (present : Bool) : Status :=
  { st with ftrDone := true, ftrPresent := present }

end Sys2Proof.Machine
end

