-- ==== Sys2Proof/Machine/Ops.lean ====
section
/-! DEFINITION. The shared operations: image memory (20_memory.md), free values, the checks every command makes
(40_control.md R90), taking a fault (60_exceptions.md R193) and the return from one (R198). -/

namespace Sys2Proof.Machine

/-- What a step or a meaning answers. -/
abbrev Result := Host.Outcome State Fault Refusal

/-! ### Image memory -/

/-- The byte the host last placed at an address, none where it placed none (20_memory.md R40, R50). -/
def Memory.read (m : Memory) (a : Nat) : Option Byte :=
  match m with
  | [] => none
  | (k, v) :: rest => if k = a then some v else Memory.read rest a

/-- Placing one byte, keeping the addresses strictly rising. -/
def Memory.write (m : Memory) (a : Nat) (b : Byte) : Memory :=
  match m with
  | [] => [(a, b)]
  | (k, v) :: rest =>
    if a < k then (a, b) :: (k, v) :: rest
    else if a = k then (a, b) :: rest
    else (k, v) :: Memory.write rest a b

/-- Placing bytes at consecutive addresses (`.img`, 30_encoding.md R59). -/
def Memory.place (m : Memory) (a : Nat) (bytes : List Byte) : Memory :=
  match bytes with
  | [] => m
  | b :: rest => Memory.place (m.write a b) (a + 1) rest

/-- Every address of the list is above `lo`, and they rise strictly. -/
def Memory.risingFrom (lo : Nat) (m : Memory) : Bool :=
  match m with
  | [] => true
  | (k, _) :: rest => decide (lo ≤ k) && Memory.risingFrom (k + 1) rest

/-- The canonical form: addresses strictly rising, all of them 64-bit addresses (R40). An unlisted address has no
value, so no entry repeats it. -/
def Memory.wf (m : Memory) : Bool :=
  Memory.risingFrom 0 m && m.all fun cell => decide (cell.1 < 2 ^ 64)

/-- The list starts with every address from `lo` up to `n`: a canonical list holds them in one run. -/
def Memory.filledFrom (lo n : Nat) (m : Memory) : Bool :=
  match m with
  | [] => decide (n ≤ lo)
  | (k, _) :: rest => decide (n ≤ lo) || (k == lo && Memory.filledFrom (lo + 1) n rest)

/-- The host has placed every byte below FILE_LEN (20_memory.md R42, 70_reset R215). -/
def imgFilled (s : State) : Bool := s.img.filledFrom 0 s.fileLen.toNat

/-- `MemRead(addr, n)` (00_scope.md R8): a meaning only when `addr + n <= FILE_LEN` (20_memory.md R42) and the host
has filled the addresses (70_reset R215). The default of `getD` is never taken: every byte is there. -/
def memRead (s : State) (addr n : Nat) : Except Fault (Vector Byte n) :=
  if s.fileLen.toNat < addr + n then .error .imgBeyondFileLen
  else if (List.range n).all fun k => (s.img.read (addr + k)).isSome then
    .ok (Vector.ofFn fun k : Fin n => (s.img.read (addr + k.val)).getD 0)
  else .error .imgNotPlaced

/-! ### Free values -/

/-- The free value of register `no`, at its width (R24: "the bits above the register's width zero"). -/
def freeReg (draw no w : Nat) : BitVec w := (Config.unspecified draw (BitVec.ofNat 8 no)).setWidth w

/-- The free value of a 1-bit register. -/
def freeFlag (draw no : Nat) : Bool := (Config.unspecified draw (BitVec.ofNat 8 no)).getLsbD 0

/-- HDR[0..15] unspecified (10_state.md R11). -/
def freeHdr (draw : Nat) : Header := Vector.ofFn fun n : Fin 16 => freeReg draw (0x10 + n.val) 8

/-- Every INFO register unspecified (10_state.md R18). -/
def freeInfo (draw : Nat) : Info where
  mapper := freeReg draw 0x20 16
  submapper := freeReg draw 0x21 8
  isExtended := freeFlag draw 0x22
  isPalLegacy := freeFlag draw 0x23
  prgSize := freeReg draw 0x24 64
  chrSize := freeReg draw 0x25 64
  prgRamSize := freeReg draw 0x26 32
  chrRamSize := freeReg draw 0x27 32
  prgSaveRamSize := freeReg draw 0x28 32
  chrSaveRamSize := freeReg draw 0x29 32
  mirroring := freeReg draw 0x2A 1
  hasFourScreenVram := freeFlag draw 0x2B
  hasBattery := freeFlag draw 0x2C
  hasTrainer := freeFlag draw 0x2D
  frameTiming := freeReg draw 0x2E 2
  consoleType := freeReg draw 0x2F 2
  consoleSub2 := freeReg draw 0x30 4
  consoleSub3 := freeReg draw 0x31 4
  miscRomCount := freeReg draw 0x32 2
  expansionDevice := freeReg draw 0x33 8
  prgRamSize8k := freeReg draw 0x34 8

/-- SEG[0..4] unspecified (10_state.md R20). -/
def freeSeg (draw : Nat) : Vector SegDesc 5 :=
  Vector.ofFn fun i : Fin 5 =>
    { offset := freeReg draw (0x40 + 4 * i.val) 64
      length := freeReg draw (0x41 + 4 * i.val) 64
      present := freeFlag draw (0x42 + 4 * i.val) }

/-- Every FTR register unspecified (10_state.md R22, 43_footer.md R168). -/
def freeFtr (draw : Nat) : Ftr where
  offset := freeReg draw 0x60 64
  title := Vector.ofFn fun k : Fin 16 => freeReg draw (0x61 + k.val) 8
  titleLen := freeReg draw 0x71 8
  titleEnc := freeReg draw 0x72 8
  sum1B0 := freeReg draw 0x73 8
  sum1B1 := freeReg draw 0x74 8
  sum2B0 := freeReg draw 0x75 8
  sum2B1 := freeReg draw 0x76 8
  prgSize := freeReg draw 0x77 32
  chrSize := freeReg draw 0x78 32
  chrRam := freeFlag draw 0x79
  mirroring := freeReg draw 0x7A 1
  mapper := freeReg draw 0x7B 8
  maker := freeReg draw 0x7C 8
  checksum := freeReg draw 0x7D 8
  sizeCode := freeReg draw 0x7E 8

/-! ### Faults and the checks of a command -/

/-- Taking a fault, the block's whole trap mechanism: ERR and ERRCODE are written and nothing else changes
(60_exceptions.md R193). -/
def raise (f : BlockFault) (s : State) : State := { s with status := s.status.raised f }

/-- The return from a fault and the block's part of a reset: STATUS and FILE_LEN become 0, every other register
unspecified, IMG untouched (40_control.md R92, 10_state.md R27, 70_reset R210). -/
def clearBlock (s : State) : State :=
  { s with
    status := Status.zero
    fileLen := 0
    hdr := freeHdr s.draw
    info := freeInfo s.draw
    seg := freeSeg s.draw
    ftr := freeFtr s.draw
    draw := s.draw + 1 }

/-- While ERR is 1 a command is ignored (40_control.md R90 step 1, 60_exceptions.md R194). -/
def unlessErr (s : State) (run : Result) : Result := if s.status.err then .next s else run

/-- The Sequence precondition (R90 step 4, 60_exceptions.md R195). -/
def needStage (s : State) (valid : Bool) (run : Result) : Result :=
  if valid then run else .next (raise .sequence s)

/-- The ShortImage precondition, FILE_LEN at least 16 (R90 step 5, 60_exceptions.md R196). -/
def needImage (s : State) (run : Result) : Result :=
  if s.fileLen.toNat < headerLen then .next (raise .shortImage s) else run

/-- A run whose FILE_LEN exceeds what the host placed gets no result (70_reset R215, 92 D38, 93 U8): a command that
takes FILE_LEN has no step, once its preconditions hold. Log 3. -/
def needFilled (s : State) (run : Result) : Result := if imgFilled s then run else .fault .imgNotPlaced

/-- A reserved command word (R90 step 2, 60_exceptions.md R192). -/
def execIllegal (s : State) : Result := unlessErr s (.next (raise .illegalCommand s))

end Sys2Proof.Machine
end

