-- ==== Sys2Proof/Machine/Control.lean ====
section
/-! DEFINITION. NOP, CLR and LDHDR (40_control.md). -/

namespace Sys2Proof.Machine

/-- NOP: no register changes (40_control.md R91). -/
def execNop (s : State) : Result := unlessErr s (.next s)

/-- CLR: the one command that runs while ERR is 1 (40_control.md R92). -/
def execClr (s : State) : Result := .next (clearBlock s)

/-- What a completed LDHDR writes (40_control.md R93). -/
def latchHeader (s : State) (h : Header) : State := { s with hdr := h, status := s.status.afterLdhdr }

/-- LDHDR: the first sixteen bytes of the image into the latches (40_control.md R93). -/
def execLdhdr (s : State) : Result :=
  unlessErr s <| needImage s <| needFilled s <|
    match memRead s 0 16 with
    | .ok h => .next (latchHeader s h)
    | .error e => .fault e

end Sys2Proof.Machine
end

