-- ==== Sys2Proof/Machine/Operands.lean ====
section
/-! DEFINITION. What a command reads: the fields of the header (30_encoding.md R61 to R68), the names of the
enumerated codes (R70), the footer's search condition and place (43_footer.md R161, R162), and the fields of the
footer's size and board bytes (R72, R73). A position the spec marks GK carries PRESUMED here (log 9, log 11). -/

namespace Sys2Proof.Machine

/-! ### The header -/

/-- `HDR[7][3:2]`, the format discriminator (R61, R64). -/
def hdrFormat (h : Header) : BitVec 2 := h[7].extractLsb' 2 2
/-- NES 2.0 exactly when `HDR[7][3:2] == 0b10` (R64, R101). -/
def hdrExtended (h : Header) : Bool := hdrFormat h == 0b10
/-- `HDR[4]`, the PRG low byte (R61). -/
def hdrPrgLow (h : Header) : Byte := h[4]
/-- `HDR[5]`, the CHR low byte (R61). -/
def hdrChrLow (h : Header) : Byte := h[5]
/-- `HDR[6][7:4]`, mapper nibble 0, the least significant (R61, R65). -/
def hdrMapper0 (h : Header) : BitVec 4 := h[6].extractLsb' 4 4
/-- `HDR[7][7:4]`, mapper nibble 1 (R61, R65). -/
def hdrMapper1 (h : Header) : BitVec 4 := h[7].extractLsb' 4 4
/-- `HDR[8][3:0]`, mapper nibble 2, extended only (R63, R65). -/
def hdrMapper2 (h : Header) : BitVec 4 := h[8].extractLsb' 0 4
/-- `HDR[8][7:4]`, the submapper, extended only (R63). -/
def hdrSubmapper (h : Header) : BitVec 4 := h[8].extractLsb' 4 4
/-- `HDR[6][0]`, mirroring (R61, R109). PRESUMED (G1). -/
def hdrMirroring (h : Header) : BitVec 1 := h[6].extractLsb' 0 1
/-- `HDR[6][1]`, battery (R61, R110). PRESUMED (G1). -/
def hdrBattery (h : Header) : Bool := h[6].getLsbD 1
/-- `HDR[6][2]`, trainer (R61, R110). PRESUMED (G1). -/
def hdrTrainer (h : Header) : Bool := h[6].getLsbD 2
/-- `HDR[6][3]`, four-screen VRAM (R61, R110). PRESUMED (G1). -/
def hdrFourScreen (h : Header) : Bool := h[6].getLsbD 3
/-- `HDR[7][1:0]`, the console type (R61, R111). PRESUMED (G2). -/
def hdrConsoleType (h : Header) : BitVec 2 := h[7].extractLsb' 0 2
/-- `HDR[8]`, the PRG-RAM count, not extended only (R62, R124). -/
def hdrPrgRamCount (h : Header) : Byte := h[8]
/-- `HDR[9][0]`, the legacy PAL flag, not extended only (R62, R125). -/
def hdrPal (h : Header) : Bool := h[9].getLsbD 0
/-- `HDR[9][3:0]`, the PRG high field, extended only (R63). PRESUMED (G3). -/
def hdrPrgHigh (h : Header) : BitVec 4 := h[9].extractLsb' 0 4
/-- `HDR[9][7:4]`, the CHR high field, extended only (R63). PRESUMED (G3). -/
def hdrChrHigh (h : Header) : BitVec 4 := h[9].extractLsb' 4 4
/-- `HDR[10][3:0]`, the PRG-RAM shift, extended only (R63). PRESUMED (G4). -/
def hdrPrgRamShift (h : Header) : BitVec 4 := h[10].extractLsb' 0 4
/-- `HDR[10][7:4]`, the PRG save-RAM shift, extended only (R63). PRESUMED (G4). -/
def hdrPrgSaveShift (h : Header) : BitVec 4 := h[10].extractLsb' 4 4
/-- `HDR[11][3:0]`, the CHR-RAM shift, extended only (R63). PRESUMED (G4). -/
def hdrChrRamShift (h : Header) : BitVec 4 := h[11].extractLsb' 0 4
/-- `HDR[11][7:4]`, the CHR save-RAM shift, extended only (R63). PRESUMED (G4). -/
def hdrChrSaveShift (h : Header) : BitVec 4 := h[11].extractLsb' 4 4
/-- `HDR[12][1:0]`, frame timing, extended only (R63). PRESUMED (G5). -/
def hdrFrameTiming (h : Header) : BitVec 2 := h[12].extractLsb' 0 2
/-- `HDR[13][3:0]`, the secondary sub-code, extended only (R63). PRESUMED (G6). -/
def hdrConsoleSub2 (h : Header) : BitVec 4 := h[13].extractLsb' 0 4
/-- `HDR[13][7:4]`, the tertiary sub-code, extended only (R63). PRESUMED (G6). -/
def hdrConsoleSub3 (h : Header) : BitVec 4 := h[13].extractLsb' 4 4
/-- `HDR[14][1:0]`, the miscellaneous ROM count, extended only (R63). PRESUMED (G5). -/
def hdrMiscCount (h : Header) : BitVec 2 := h[14].extractLsb' 0 2
/-- `HDR[15]`, the expansion device code before clamping, extended only (R63, 92 D18). -/
def hdrExpansion (h : Header) : Byte := h[15]

/-- E, bits 7:2 of the low byte in the sentinel case (R67). -/
def sizeExponent (x : Byte) : BitVec 6 := x.extractLsb' 2 6
/-- M, bits 1:0 of the low byte in the sentinel case (R67). -/
def sizeMultiplier (x : Byte) : BitVec 2 := x.extractLsb' 0 2

/-! ### The names of the codes (R70) -/

/-- INFO.MIRRORING's names (R70, 90 C3). -/
inductive Mirroring where
  | horizontal
  | vertical
  deriving DecidableEq, Repr

/-- INFO.FRAME_TIMING's names (R70). -/
inductive FrameTiming where
  | ntsc
  | pal
  | multiple
  | dendy
  deriving DecidableEq, Repr

/-- INFO.CONSOLE_TYPE's names (R70). -/
inductive ConsoleType where
  | standard
  | vsSystem
  | playChoice10
  | extended
  deriving DecidableEq, Repr

/-- 0 Horizontal, 1 Vertical (R70, 92 D15). -/
def mirroringName (v : BitVec 1) : Mirroring := if v = 0 then .horizontal else .vertical

/-- 0 NTSC, 1 PAL, 2 Multiple, 3 Dendy (R70). -/
def frameTimingName (v : BitVec 2) : FrameTiming :=
  match v.toNat with
  | 0 => .ntsc
  | 1 => .pal
  | 2 => .multiple
  | _ => .dendy

/-- 0 Standard, 1 VsSystem, 2 PlayChoice10, 3 Extended (R70). -/
def consoleTypeName (v : BitVec 2) : ConsoleType :=
  match v.toNat with
  | 0 => .standard
  | 1 => .vsSystem
  | 2 => .playChoice10
  | _ => .extended

/-! ### The footer -/

/-- The condition under which the footer is looked for (43_footer.md R161). -/
def footerSearched (s : State) : Bool := s.seg[2].present && decide (footerMinPrg ≤ s.info.prgSize.toNat)

/-- The candidate's first byte, FOOTER_BACK before the end of ProgramRom, the trainer counted once
(43_footer.md R162, 90 C5). -/
def footerCandidate (s : State) : Nat := s.seg[2].offset.toNat + s.seg[2].length.toNat - footerBack

/-- `s[6:4]` of the size byte, the PRG size index (R72). PRESUMED (G9). -/
def sizePrgIndex (b : Byte) : BitVec 3 := b.extractLsb' 4 3
/-- `s[3]` of the size byte, the CHR-RAM flag (R72). PRESUMED (G9). -/
def sizeChrRam (b : Byte) : Bool := b.getLsbD 3
/-- `s[2:0]` of the size byte, the CHR size index (R72). PRESUMED (G9). -/
def sizeChrIndex (b : Byte) : BitVec 3 := b.extractLsb' 0 3
/-- `t[7]` of the board byte, the mirroring bit (R73). PRESUMED (G10). -/
def boardMirroring (b : Byte) : BitVec 1 := b.extractLsb' 7 1
/-- `t[6:0]` of the board byte, the mapper code (R73). PRESUMED (G10). -/
def boardMapper (b : Byte) : BitVec 7 := b.extractLsb' 0 7

end Sys2Proof.Machine
end

