-- ==== Sys2Proof/Machine/Dec.lean ====
section
/-! DEFINITION. Unit DEC: the header's bit-field extractor and the command DECODE (41_decode.md). -/

namespace Sys2Proof.Machine

/-- `expmul(x)`, the exponent/multiplier decoder (41_decode.md R104): a mathematical integer, below 2^64. -/
def expmul (x : Byte) : Nat :=
  let e := (sizeExponent x).toNat
  let m := (sizeMultiplier x).toNat
  if e > expMax then 0 else 2 ^ e * (2 * m + 1)

/-- `rom_size(ext, high, low, unit)` (41_decode.md R103). -/
def romSize (ext : Bool) (high : BitVec 4) (low : Byte) (unit : Nat) : Nat :=
  if !ext then low.toNat * unit
  else if high = sizeSentinel then expmul low
  else (high.toNat * 256 + low.toNat) * unit

/-- `ram_size(s)` (41_decode.md R105). -/
def ramSize (shift : BitVec 4) : Nat := if shift = 0 then 0 else ramUnit <<< shift.toNat

/-- `clamp_expdev(v)` (41_decode.md R122): codes above EXPDEV_KNOWN_MAX become the sentinel. -/
def clampExpdev (v : Byte) : Byte :=
  if v.toNat ≤ Config.expdevKnownMax.val then v else BitVec.ofNat 8 (Config.expdevKnownMax.val + 1)

/-- A value decoded only in one of the two formats, 0 in the other (41_decode.md R112, 10_state.md R19). -/
def onlyIf (c : Bool) {w : Nat} (v : BitVec w) : BitVec w := if c then v else 0

/-- INFO.MAPPER: `zext_16({n2, n1, n0})` (41_decode.md R107). -/
def mapperOf (h : Header) : BitVec 16 :=
  (onlyIf (hdrExtended h) (hdrMapper2 h) ++ hdrMapper1 h ++ hdrMapper0 h).setWidth 16

/-- INFO.PRG_SIZE (41_decode.md R113). -/
def prgSizeOf (h : Header) : BitVec 64 :=
  BitVec.ofNat 64 (romSize (hdrExtended h) (hdrPrgHigh h) (hdrPrgLow h) prgUnit)

/-- INFO.CHR_SIZE (41_decode.md R114). -/
def chrSizeOf (h : Header) : BitVec 64 :=
  BitVec.ofNat 64 (romSize (hdrExtended h) (hdrChrHigh h) (hdrChrLow h) chrUnit)

/-- The console type selects VsSystem or Extended, in the extended format (41_decode.md R120). -/
def subCodesUsed (h : Header) : Bool := hdrExtended h && (hdrConsoleType h == 1 || hdrConsoleType h == 3)

/-- The document's `decode(header)`: every INFO register from the sixteen bytes (41_decode.md R100 to R125). -/
def decodeHeader (h : Header) : Info :=
  let ext := hdrExtended h
  { mapper := mapperOf h
    submapper := onlyIf ext ((hdrSubmapper h).setWidth 8)
    isExtended := ext
    isPalLegacy := !ext && hdrPal h
    prgSize := prgSizeOf h
    chrSize := chrSizeOf h
    prgRamSize := onlyIf ext (BitVec.ofNat 32 (ramSize (hdrPrgRamShift h)))
    chrRamSize := onlyIf ext (BitVec.ofNat 32 (ramSize (hdrChrRamShift h)))
    prgSaveRamSize := onlyIf (ext && hdrBattery h) (BitVec.ofNat 32 (ramSize (hdrPrgSaveShift h)))
    chrSaveRamSize := onlyIf (ext && hdrBattery h) (BitVec.ofNat 32 (ramSize (hdrChrSaveShift h)))
    mirroring := hdrMirroring h
    hasFourScreenVram := hdrFourScreen h
    hasBattery := hdrBattery h
    hasTrainer := hdrTrainer h
    frameTiming := onlyIf ext (hdrFrameTiming h)
    consoleType := hdrConsoleType h
    consoleSub2 := onlyIf (subCodesUsed h) (hdrConsoleSub2 h)
    consoleSub3 := onlyIf (subCodesUsed h) (hdrConsoleSub3 h)
    miscRomCount := onlyIf ext (hdrMiscCount h)
    expansionDevice := onlyIf ext (clampExpdev (hdrExpansion h))
    prgRamSize8k := onlyIf (!ext) (hdrPrgRamCount h) }

/-- What a completed DECODE writes (41_decode.md R100). -/
def decodeInfo (s : State) : State :=
  { s with info := decodeHeader s.hdr, status := s.status.afterDecode }

/-- DECODE (41_decode.md R100). -/
def execDecode (s : State) : Result :=
  unlessErr s <| needStage s s.status.hdrValid <| .next (decodeInfo s)

end Sys2Proof.Machine
end

