-- ==== Sys2Proof/Machine/Lay.lean ====
section
/-! DEFINITION. Unit LAY: the segment walk and the command LAYOUT (42_layout.md). -/

namespace Sys2Proof.Machine

/-- The walk's temporaries: the running offset and the propagating truncation flag (42_layout.md R140, 10_state.md
R25). Integers, so that nothing wraps (R150). -/
structure Walk where
  off   : Nat
  trunc : Bool
  deriving DecidableEq, Repr

/-- What LAYOUT computes: SEG[0..4], TRUNC and MISC_DECL_ABSENT (42_layout.md R140). -/
structure Segments where
  seg            : Vector SegDesc 5
  trunc          : Bool
  miscDeclAbsent : Bool
  deriving DecidableEq, Repr

/-- A declared segment fits: its length is not 0, no segment before it was short, and the bytes that remain are
enough, by the comparison of R142 (42_layout.md R142, R150). -/
def segFits (fileLen : Nat) (w : Walk) (declared : Nat) : Bool :=
  declared != 0 && !w.trunc && decide (declared ≤ fileLen - w.off)

/-- The descriptor the walk leaves for a segment, present or absent (42_layout.md R142, R148). -/
def segDescOf (off len : Nat) (present : Bool) : SegDesc :=
  { offset := BitVec.ofNat 64 off, length := BitVec.ofNat 64 len, present }

/-- The walk after a segment with a declared length (42_layout.md R142). -/
def walkPast (fileLen : Nat) (w : Walk) (declared : Nat) : Walk :=
  if declared = 0 ∨ w.trunc then w
  else if declared ≤ fileLen - w.off then { w with off := w.off + declared }
  else { w with trunc := true }

/-- The Trainer's declared length (42_layout.md R143). -/
def trainerDeclared (info : Info) : Nat := if info.hasTrainer then trainerLen else 0

/-- The walk after the Header, always present (42_layout.md R141). -/
def walkHeader : Walk := { off := headerLen, trunc := false }

/-- The walk after the Trainer (42_layout.md R143). -/
def walkTrainer (info : Info) (fileLen : Nat) : Walk := walkPast fileLen walkHeader (trainerDeclared info)

/-- The walk after ProgramRom (42_layout.md R144). -/
def walkPrg (info : Info) (fileLen : Nat) : Walk :=
  walkPast fileLen (walkTrainer info fileLen) info.prgSize.toNat

/-- The walk after CharacterRom (42_layout.md R145). -/
def walkChr (info : Info) (fileLen : Nat) : Walk :=
  walkPast fileLen (walkPrg info fileLen) info.chrSize.toNat

/-- The descriptor of a segment with a declared length (42_layout.md R142, R148). -/
def segAt (fileLen : Nat) (w : Walk) (declared : Nat) : SegDesc :=
  segDescOf w.off declared (segFits fileLen w declared)

/-- Miscellaneous: every byte after the last present segment, unless a segment was short (42_layout.md R147, R148). -/
def segMisc (fileLen : Nat) (w : Walk) : SegDesc :=
  if w.trunc ∨ fileLen - w.off = 0 then segDescOf w.off 0 false
  else segDescOf w.off (fileLen - w.off) true

/-- The segment walk of the document's `resolve(info, file_length)` (42_layout.md R140). -/
def segmentWalk (info : Info) (fileLen : Nat) : Segments :=
  let misc := segMisc fileLen (walkChr info fileLen)
  { seg := #v[segDescOf 0 headerLen true,
      segAt fileLen walkHeader (trainerDeclared info),
      segAt fileLen (walkTrainer info fileLen) info.prgSize.toNat,
      segAt fileLen (walkPrg info fileLen) info.chrSize.toNat,
      misc]
    trunc := (walkChr info fileLen).trunc
    miscDeclAbsent := decide (0 < info.miscRomCount.toNat) && !misc.present }

/-- What a completed LAYOUT writes (42_layout.md R140). -/
def layoutSegments (s : State) : State :=
  let r := segmentWalk s.info s.fileLen.toNat
  { s with seg := r.seg, status := s.status.afterLayout r.trunc r.miscDeclAbsent }

/-- LAYOUT (42_layout.md R140). -/
def execLayout (s : State) : Result :=
  unlessErr s <| needStage s s.status.infoValid <| needImage s <| needFilled s <| .next (layoutSegments s)

end Sys2Proof.Machine
end

