-- ==== Sys2Proof/Machine/FtrUnit.lean ====
section
/-! DEFINITION. Unit FTR: the footer's validation and decoding, and the commands FOOTER and RESOLVE
(43_footer.md). -/

namespace Sys2Proof.Machine

/-- The self-checksum: the 8 bytes at relative offsets 0x12 to 0x19, modulo 256 (43_footer.md R164). -/
def footerSum (F : FooterBytes) : Nat :=
  (F[0x12].toNat + F[0x13].toNat + F[0x14].toNat + F[0x15].toNat + F[0x16].toNat + F[0x17].toNat + F[0x18].toNat
    + F[0x19].toNat) % 256

/-- The ten bytes at relative offsets 0x10 to 0x19 are all 0 (43_footer.md R165). -/
def footerAllZero (F : FooterBytes) : Bool := (F.toList.drop 0x10).all (· == 0)

/-- A candidate's validity (43_footer.md R166). -/
def footerValid (F : FooterBytes) : Bool := footerSum F == 0 && !footerAllZero F

/-- The title length: 0, or the title-length byte plus one, without wrapping (43_footer.md R169). -/
def titleLength (f : Byte) : Nat := if f = 0 then 0 else f.toNat + 1

/-- `san(c)`: a byte outside 0x20 to 0x5A becomes a space (43_footer.md R170). -/
def sanitise (c : Byte) : Byte := if 0x20 ≤ c.toNat ∧ c.toNat ≤ 0x5A then c else 0x20

/-- FTR.TITLE: the sanitised bytes where the encoding byte is not 0, else sixteen spaces (43_footer.md R170). -/
def footerTitle (F : FooterBytes) (enc : Byte) : Vector Byte 16 :=
  Vector.ofFn fun k : Fin 16 => if enc ≠ 0 then sanitise F[k.val] else 0x20

/-- FTR.PRG_SIZE with its override (43_footer.md R173). -/
def footerPrgSize (idx : BitVec 3) (mapper : Nat) : Nat :=
  let p := sizeTableKiB idx
  (if p = 8 ∧ mapper ≥ 2 then 64 else p) * 1024

/-- FTR.CHR_SIZE with its override (43_footer.md R174). -/
def footerChrSize (idx : BitVec 3) (mapper : Nat) (chrRam : Bool) : Nat :=
  let c := sizeTableKiB idx
  (if c = 8 ∧ mapper = 4 ∧ chrRam = false then 64 else c) * 1024

/-- The FTR registers of an accepted candidate at `cand` (43_footer.md R169 to R176). -/
def footerFields (l : FtrLayout) (cand : Nat) (F : FooterBytes) : Ftr :=
  let size := F[l.size]
  let board := F[l.board]
  let mapper := boardMapper board
  { offset := BitVec.ofNat 64 cand
    title := footerTitle F F[l.enc]
    titleLen := BitVec.ofNat 8 (titleLength F[l.tlen])
    titleEnc := F[l.enc]
    sum1B0 := F[0x10]
    sum1B1 := F[0x11]
    sum2B0 := F[0x12]
    sum2B1 := F[0x13]
    prgSize := BitVec.ofNat 32 (footerPrgSize (sizePrgIndex size) mapper.toNat)
    chrSize := BitVec.ofNat 32 (footerChrSize (sizeChrIndex size) mapper.toNat (sizeChrRam size))
    chrRam := sizeChrRam size
    mirroring := boardMirroring board
    mapper := mapper.setWidth 8
    maker := F[l.maker]
    checksum := F[l.cksum]
    sizeCode := size }

/-- All or nothing: the footer of a candidate, or none (43_footer.md R166, R168, R169, R177). -/
def parseFooter (l : FtrLayout) (cand : Nat) (F : FooterBytes) : Option Ftr :=
  if !footerValid F || decide (titleLength F[l.tlen] > 16) then none else some (footerFields l cand F)

/-- FOOTER that found none: every FTR register unspecified (43_footer.md R160, R168). -/
def noFooter (s : State) : State :=
  { s with ftr := freeFtr s.draw, draw := s.draw + 1, status := s.status.afterFooter false }

/-- FOOTER that rejected the candidate at `cand`: FTR.OFFSET keeps it (43_footer.md R162, R168). -/
def rejectFooter (s : State) (cand : Nat) : State :=
  { noFooter s with ftr := { freeFtr s.draw with offset := BitVec.ofNat 64 cand } }

/-- FOOTER that accepted a footer (43_footer.md R160, R177). -/
def acceptFooter (s : State) (f : Ftr) : State :=
  { s with ftr := f, status := s.status.afterFooter true }

/-- FOOTER's pseudocode after its check (43_footer.md R160), the single bytes where the configuration's FTR_LAYOUT puts
them (R71). -/
def findFooter (s : State) : Result :=
  if footerSearched s then
    match memRead s (footerCandidate s) footerLen with
    | .ok F =>
      match parseFooter s.config.ftrLayout (footerCandidate s) F with
      | some f => .next (acceptFooter s f)
      | none => .next (rejectFooter s (footerCandidate s))
    | .error e => .fault e
  else .next (noFooter s)

/-- FOOTER (43_footer.md R160). -/
def execFooter (s : State) : Result :=
  unlessErr s <| needStage s s.status.segValid <| findFooter s

/-- RESOLVE: LAYOUT's checks, LAYOUT's body, FOOTER's body, as one command (43_footer.md R180). -/
def execResolve (s : State) : Result :=
  unlessErr s <| needStage s s.status.infoValid <| needImage s <| needFilled s <| findFooter (layoutSegments s)

end Sys2Proof.Machine
end

