-- ==== Sys2Proof/Syntax.lean ====
section
/-! DEFINITION. The block's commands: spec/opcode_table.json row for row (30_encoding.md R56). No command has an
operand (R55). -/

namespace Sys2Proof

/-- A command of the block. -/
inductive Instr where
  | nop
  | ldhdr
  | decode
  | layout
  | footer
  | resolve
  | clr
  deriving DecidableEq, Repr

/-- The pseudo-instruction ANALYZE, a host-side macro (R60). -/
def analyze : List Instr := [.ldhdr, .decode, .resolve]

end Sys2Proof
end

