-- ==== Sys2Proof/Machine/Dispatch.lean ====
section
/-! DEFINITION. One arm per command (30_encoding.md R56). -/

namespace Sys2Proof.Machine

/-- Executing one command (40_control.md R90). -/
def exec (i : Instr) (s : State) : Host.Outcome State Fault Refusal :=
  match i with
  | .nop => Sys2Proof.Machine.execNop s
  | .ldhdr => Sys2Proof.Machine.execLdhdr s
  | .decode => Sys2Proof.Machine.execDecode s
  | .layout => Sys2Proof.Machine.execLayout s
  | .footer => Sys2Proof.Machine.execFooter s
  | .resolve => Sys2Proof.Machine.execResolve s
  | .clr => Sys2Proof.Machine.execClr s

end Sys2Proof.Machine
end

