-- ==== Sys2Proof/Decode.lean ====
section
/-! DEFINITION. The command word CMD8 (30_encoding.md R55 to R57): bits 7:3 ZERO, bits 2:0 OP; the decoder, total on
the 256 words, and the encoder, both from the opcode map of R56. -/

namespace Sys2Proof

/-- Why a word is illegal (R57). -/
inductive IllegalWord where
  /-- One of bits 7:3 is set. -/
  | zeroFieldSet
  /-- OP is 0b111. -/
  | reservedOp
  deriving DecidableEq, Repr

/-- Bits 7:3 of a command word (R55). -/
def cmdZero (c : Byte) : BitVec 5 := c.extractLsb' 3 5

/-- Bits 2:0 of a command word (R55). -/
def cmdOp (c : Byte) : BitVec 3 := c.extractLsb' 0 3

/-- The opcode map (R56); OP 0b111 is reserved. -/
def instrOfOp (op : BitVec 3) : Option Instr :=
  match op.toNat with
  | 0 => some .nop
  | 1 => some .ldhdr
  | 2 => some .decode
  | 3 => some .layout
  | 4 => some .footer
  | 5 => some .resolve
  | 6 => some .clr
  | _ => none

/-- The decoder: each of the 256 words is one of the seven commands or illegal (R57). -/
def decode (c : Byte) : Except IllegalWord Instr :=
  if cmdZero c ≠ 0 then .error .zeroFieldSet
  else
    match instrOfOp (cmdOp c) with
    | some i => .ok i
    | none => .error .reservedOp

/-- The command a word stands for, or none where the word is illegal. -/
def decode? (c : Byte) : Option Instr :=
  match decode c with
  | .ok i => some i
  | .error _ => none

/-- The word of each command (R56). -/
def encode (i : Instr) : Byte :=
  match i with
  | .nop => 0x00
  | .ldhdr => 0x01
  | .decode => 0x02
  | .layout => 0x03
  | .footer => 0x04
  | .resolve => 0x05
  | .clr => 0x06

/-- The command in a table word: a command is one byte long (R55), so every bit of it is in `w`'s low eight. -/
def decodeTableWord (_nbits w : Nat) : Option Instr := decode? (BitVec.ofNat 8 w)

end Sys2Proof
end

