-- ==== Sys2Proof/Machine/HostPort.lean ====
section
/-! DEFINITION. The host's transactions (20_memory.md R46): the register map (10_state.md R14 to R24), ReadReg and
WriteReg, the placing of image bytes (R40), the platform's reset (70_reset R210), and the host directives of
30_encoding.md R59. -/

namespace Sys2Proof.Machine

/-- The INFO registers by name (10_state.md R18). -/
inductive InfoReg where
  | mapper | submapper | isExtended | isPalLegacy | prgSize | chrSize | prgRamSize | chrRamSize | prgSaveRamSize
  | chrSaveRamSize | mirroring | hasFourScreenVram | hasBattery | hasTrainer | frameTiming | consoleType | consoleSub2
  | consoleSub3 | miscRomCount | expansionDevice | prgRamSize8k
  deriving DecidableEq, Repr

/-- The three registers of a descriptor (10_state.md R20). -/
inductive SegReg where
  | offset | length | present
  deriving DecidableEq, Repr

/-- The FTR registers by name (10_state.md R22). -/
inductive FtrReg where
  | offset
  | title (k : Fin 16)
  | titleLen | titleEnc | sum1B0 | sum1B1 | sum2B0 | sum2B1 | prgSize | chrSize | chrRam | mirroring | mapper | maker
  | checksum | sizeCode
  deriving DecidableEq, Repr

/-- Every register of the register space (10_state.md R23). -/
inductive Reg where
  | fileLen
  | cmd
  | status
  | hdr (n : Fin 16)
  | info (r : InfoReg)
  | seg (i : Fin 5) (r : SegReg)
  | ftr (r : FtrReg)
  deriving DecidableEq, Repr

/-- The numbers of R18's table. -/
def infoNumber (r : InfoReg) : Nat :=
  match r with
  | .mapper => 0x20
  | .submapper => 0x21
  | .isExtended => 0x22
  | .isPalLegacy => 0x23
  | .prgSize => 0x24
  | .chrSize => 0x25
  | .prgRamSize => 0x26
  | .chrRamSize => 0x27
  | .prgSaveRamSize => 0x28
  | .chrSaveRamSize => 0x29
  | .mirroring => 0x2A
  | .hasFourScreenVram => 0x2B
  | .hasBattery => 0x2C
  | .hasTrainer => 0x2D
  | .frameTiming => 0x2E
  | .consoleType => 0x2F
  | .consoleSub2 => 0x30
  | .consoleSub3 => 0x31
  | .miscRomCount => 0x32
  | .expansionDevice => 0x33
  | .prgRamSize8k => 0x34

/-- The numbers of R22's table. -/
def ftrNumber (r : FtrReg) : Nat :=
  match r with
  | .offset => 0x60
  | .title k => 0x61 + k.val
  | .titleLen => 0x71
  | .titleEnc => 0x72
  | .sum1B0 => 0x73
  | .sum1B1 => 0x74
  | .sum2B0 => 0x75
  | .sum2B1 => 0x76
  | .prgSize => 0x77
  | .chrSize => 0x78
  | .chrRam => 0x79
  | .mirroring => 0x7A
  | .mapper => 0x7B
  | .maker => 0x7C
  | .checksum => 0x7D
  | .sizeCode => 0x7E

/-- A register's number (R14, R16 to R18, R20, R22). -/
def regNumber (r : Reg) : Nat :=
  match r with
  | .fileLen => 0x00
  | .cmd => 0x01
  | .status => 0x02
  | .hdr n => 0x10 + n.val
  | .info f => infoNumber f
  | .seg i .offset => 0x40 + 4 * i.val
  | .seg i .length => 0x41 + 4 * i.val
  | .seg i .present => 0x42 + 4 * i.val
  | .ftr f => ftrNumber f

/-- The INFO registers, in the order of R18. -/
def infoRegs : List InfoReg :=
  [.mapper, .submapper, .isExtended, .isPalLegacy, .prgSize, .chrSize, .prgRamSize, .chrRamSize, .prgSaveRamSize,
    .chrSaveRamSize, .mirroring, .hasFourScreenVram, .hasBattery, .hasTrainer, .frameTiming, .consoleType]
  ++ [.consoleSub2, .consoleSub3, .miscRomCount, .expansionDevice, .prgRamSize8k]

/-- The FTR registers, in the order of R22. -/
def ftrRegs : List FtrReg :=
  .offset :: (List.finRange 16).map .title
  ++ [.titleLen, .titleEnc, .sum1B0, .sum1B1, .sum2B0, .sum2B1, .prgSize, .chrSize, .chrRam, .mirroring, .mapper, .maker,
    .checksum, .sizeCode]

/-- Every assigned register (R23). -/
def allRegs : List Reg :=
  [.fileLen, .cmd, .status] ++ (List.finRange 16).map .hdr ++ infoRegs.map .info
  ++ ((List.finRange 5).map fun i => [.seg i .offset, .seg i .length, .seg i .present]).flatten ++ ftrRegs.map .ftr

/-- The register a number names; a number of R24's list names none. -/
def regOfNumber (no : Nat) : Option Reg := allRegs.find? fun r => regNumber r == no

/-- A register's width (R11, R14, R16 to R18, R20, R22). -/
def regWidth (r : Reg) : Nat :=
  match r with
  | .fileLen => 64
  | .cmd => 8
  | .status => 16
  | .hdr _ => 8
  | .info .mapper => 16
  | .info .submapper => 8
  | .info .isExtended => 1
  | .info .isPalLegacy => 1
  | .info .prgSize => 64
  | .info .chrSize => 64
  | .info .prgRamSize => 32
  | .info .chrRamSize => 32
  | .info .prgSaveRamSize => 32
  | .info .chrSaveRamSize => 32
  | .info .mirroring => 1
  | .info .hasFourScreenVram => 1
  | .info .hasBattery => 1
  | .info .hasTrainer => 1
  | .info .frameTiming => 2
  | .info .consoleType => 2
  | .info .consoleSub2 => 4
  | .info .consoleSub3 => 4
  | .info .miscRomCount => 2
  | .info .expansionDevice => 8
  | .info .prgRamSize8k => 8
  | .seg _ .offset => 64
  | .seg _ .length => 64
  | .seg _ .present => 1
  | .ftr .offset => 64
  | .ftr (.title _) => 8
  | .ftr .titleLen => 8
  | .ftr .titleEnc => 8
  | .ftr .sum1B0 => 8
  | .ftr .sum1B1 => 8
  | .ftr .sum2B0 => 8
  | .ftr .sum2B1 => 8
  | .ftr .prgSize => 32
  | .ftr .chrSize => 32
  | .ftr .chrRam => 1
  | .ftr .mirroring => 1
  | .ftr .mapper => 8
  | .ftr .maker => 8
  | .ftr .checksum => 8
  | .ftr .sizeCode => 8

/-- A 1-bit flag zero-extended to 64 bits (R24). -/
def flag64 (b : Bool) : BitVec 64 := (BitVec.ofBool b).setWidth 64

/-- An INFO register zero-extended to 64 bits (R18, R24). -/
def infoValue (i : Info) (r : InfoReg) : BitVec 64 :=
  match r with
  | .mapper => i.mapper.setWidth 64
  | .submapper => i.submapper.setWidth 64
  | .isExtended => flag64 i.isExtended
  | .isPalLegacy => flag64 i.isPalLegacy
  | .prgSize => i.prgSize
  | .chrSize => i.chrSize
  | .prgRamSize => i.prgRamSize.setWidth 64
  | .chrRamSize => i.chrRamSize.setWidth 64
  | .prgSaveRamSize => i.prgSaveRamSize.setWidth 64
  | .chrSaveRamSize => i.chrSaveRamSize.setWidth 64
  | .mirroring => i.mirroring.setWidth 64
  | .hasFourScreenVram => flag64 i.hasFourScreenVram
  | .hasBattery => flag64 i.hasBattery
  | .hasTrainer => flag64 i.hasTrainer
  | .frameTiming => i.frameTiming.setWidth 64
  | .consoleType => i.consoleType.setWidth 64
  | .consoleSub2 => i.consoleSub2.setWidth 64
  | .consoleSub3 => i.consoleSub3.setWidth 64
  | .miscRomCount => i.miscRomCount.setWidth 64
  | .expansionDevice => i.expansionDevice.setWidth 64
  | .prgRamSize8k => i.prgRamSize8k.setWidth 64

/-- A descriptor's register zero-extended to 64 bits (R20, R24). -/
def segValue (d : SegDesc) (r : SegReg) : BitVec 64 :=
  match r with
  | .offset => d.offset
  | .length => d.length
  | .present => flag64 d.present

/-- An FTR register zero-extended to 64 bits (R22, R24). -/
def ftrValue (f : Ftr) (r : FtrReg) : BitVec 64 :=
  match r with
  | .offset => f.offset
  | .title k => f.title[k].setWidth 64
  | .titleLen => f.titleLen.setWidth 64
  | .titleEnc => f.titleEnc.setWidth 64
  | .sum1B0 => f.sum1B0.setWidth 64
  | .sum1B1 => f.sum1B1.setWidth 64
  | .sum2B0 => f.sum2B0.setWidth 64
  | .sum2B1 => f.sum2B1.setWidth 64
  | .prgSize => f.prgSize.setWidth 64
  | .chrSize => f.chrSize.setWidth 64
  | .chrRam => flag64 f.chrRam
  | .mirroring => f.mirroring.setWidth 64
  | .mapper => f.mapper.setWidth 64
  | .maker => f.maker.setWidth 64
  | .checksum => f.checksum.setWidth 64
  | .sizeCode => f.sizeCode.setWidth 64

/-- The value a register stores, zero-extended to 64 bits; CMD retains nothing and reads as 0 (R16, R24). -/
def regValue (s : State) (r : Reg) : BitVec 64 :=
  match r with
  | .fileLen => s.fileLen
  | .cmd => 0
  | .status => s.status.word.setWidth 64
  | .hdr n => s.hdr[n].setWidth 64
  | .info f => infoValue s.info f
  | .seg i f => segValue s.seg[i] f
  | .ftr f => ftrValue s.ftr f

/-- A register is specified while its stage is valid (R11, R14, R18, R20); FTR.OFFSET while the search ran and got as
far as a candidate, every other FTR register while FTR_PRESENT is 1 (R22, 43_footer.md R168). -/
def regSpecified (s : State) (r : Reg) : Bool :=
  match r with
  | .fileLen => true
  | .cmd => true
  | .status => true
  | .hdr _ => s.status.hdrValid
  | .info _ => s.status.infoValid
  | .seg _ _ => s.status.segValid
  | .ftr .offset => s.status.ftrDone && footerSearched s
  | .ftr _ => s.status.ftrPresent

/-- What a ReadReg of `no` returns (R24): the register's value where it is specified, a free value of its width where
it is not, a free 64-bit value where the number is unassigned. -/
def readRegData (s : State) (no : BitVec 8) : BitVec 64 :=
  match regOfNumber no.toNat with
  | some r =>
    if regSpecified s r then regValue s r
    else (Config.unspecified s.draw no).setWidth (regWidth r) |>.setWidth 64
  | none => Config.unspecified s.draw no

/-- ReadReg: no side effect on any register (R24, 20_memory.md R47). The counter advances so that no two reads share
a free value (log 4). -/
def hostRead (s : State) (no : BitVec 8) : State := { s with rdata := readRegData s no, draw := s.draw + 1 }

/-- A host write of FILE_LEN, also while ERR is 1 and also of the value it holds (R17, 60_exceptions.md R194). -/
def writeFileLen (s : State) (v : Addr) : State := { s with fileLen := v, status := s.status.segCleared }

/-- CMD's register number (R16). -/
def cmdReg : BitVec 8 := 0x01

/-- FILE_LEN's register number (R17). -/
def fileLenReg : BitVec 8 := 0x00

/-- The command word in the data of a write to CMD: its low 8 bits (R24). -/
def cmdWord (data : BitVec 64) : Byte := data.setWidth 8

/-- A WriteReg to a register other than CMD: FILE_LEN is written, any other number has no effect (R24). -/
def hostWrite (s : State) (no : BitVec 8) (data : BitVec 64) : State :=
  if no = fileLenReg then writeFileLen s data else s

/-- The host places bytes in IMG (20_memory.md R40, R50); no register changes. A byte past the last 64-bit address
has no place (log 6). -/
def hostPlace (s : State) (addr : Addr) (bytes : List Byte) : Result :=
  if 2 ^ 64 < addr.toNat + bytes.length then .fault .imgNoSuchAddress
  else .next { s with img := s.img.place addr.toNat bytes }

/-- The transaction `Command(c)`: a write of CMD (R16, 20_memory.md R46). -/
def commandTxn (c : Byte) : HostTxn := .writeReg cmdReg (c.setWidth 64)

/-- A line of a host program (30_encoding.md R59, R60). -/
inductive Line where
  | command (i : Instr)
  | analyze
  | img (addr : Addr) (bytes : List Byte)
  | len (n : Addr)
  | rd (r : Reg)
  deriving DecidableEq, Repr

/-- The host transactions a line stands for (30_encoding.md R59, R60). -/
def lineTxns (l : Line) : List HostTxn :=
  match l with
  | .command i => [commandTxn (encode i)]
  | .analyze => Sys2Proof.analyze.map fun i => commandTxn (encode i)
  | .img addr bytes => [.imgPlace addr bytes]
  | .len n => [.writeReg fileLenReg n]
  | .rd r => [.readReg (BitVec.ofNat 8 (regNumber r))]

/-- The host transactions of a program, in order (30_encoding.md R59). -/
def assemble (p : List Line) : List HostTxn := (p.map lineTxns).flatten

end Sys2Proof.Machine
end

