-- ==== Sys2Proof/Machine/Command.lean ====
section
/-! DEFINITION. What one host transaction does (20_memory.md R46), the execution of a command word among them
(40_control.md R90). -/

namespace Sys2Proof.Machine

/-- Executing `Command(c)` (40_control.md R90): a legal word runs its command, any other raises IllegalCommand; both
are ignored while ERR is 1 (each meaning's `unlessErr`), but for CLR. -/
def runWord (c : Byte) (s : State) : Result :=
  match decode? c with
  | some i => exec i s
  | none => execIllegal s

/-- One of the host's transactions (20_memory.md R46, 70_reset R210). -/
def runTxn (tx : HostTxn) (s : State) : Result :=
  match tx with
  | .writeReg no data => if no = cmdReg then runWord (cmdWord data) s else .next (hostWrite s no data)
  | .readReg no => .next (hostRead s no)
  | .imgPlace addr bytes => hostPlace s addr bytes
  | .reset => .next (clearBlock s)

end Sys2Proof.Machine
end

