-- ==== Sys2Proof/Machine/Step.lean ====
section
/-! DEFINITION. One step: the host's next transaction, carried out whole (20_memory.md R46). The block has no program
counter: what it runs next is what the host next writes to CMD (10_state.md R13, R16). -/

namespace Sys2Proof.Machine

/-- One step: the oldest pending transaction; with none pending the block is idle (10_state.md R25, 70_reset R210:
"the block does nothing until the host writes CMD"). -/
def step (s : State) : Host.Outcome State Fault Refusal :=
  match s.port with
  | [] => .next s
  | tx :: rest => runTxn tx { s with port := rest }

/-- The state in which the host's next transaction is `Command(w)`: log 1 says how a program comes to run. -/
def State.withFetchWord (s : State) (_nbits w : Nat) : State :=
  { s with port := commandTxn (BitVec.ofNat 8 w) :: s.port }

end Sys2Proof.Machine
end

