-- ==== Sys2Proof/WellFormed.lean ====
section
/-! DEFINITION. The checks on what the machine is given: a command word (30_encoding.md R55, R57), the open layout
parameter (R71) and the footer's distance (00_scope.md R6, 93 U6). A command has no operand, so every `Instr` is
well formed. -/

namespace Sys2Proof

/-- Every command is well formed: it has no field that could be out of range (R55). -/
def Instr.wellFormed (i : Instr) : Bool :=
  match i with
  | .nop | .ldhdr | .decode | .layout | .footer | .resolve | .clr => true

/-- A command word is legal: ZERO is 0 and OP is not 0b111 (R55, R57). -/
def wordWellFormed (c : Byte) : Bool := cmdZero c == 0 && cmdOp c != 7

/-- A value of FTR_LAYOUT gives the six single bytes six places of their own after the second checksum, so inside
the all-zero window (R71). -/
def FtrLayout.wellFormed (l : FtrLayout) : Bool :=
  let places := [l.size, l.board, l.enc, l.tlen, l.maker, l.cksum]
  places.all (fun k => decide (0x14 ≤ k.val)) && decide places.Nodup

/-- A value of FOOTER_BACK keeps the 26 bytes inside a ProgramRom of at least 32 bytes (R6, R162, 93 U6). -/
def footerBackWellFormed (back : Nat) : Bool := decide (26 ≤ back ∧ back ≤ 32)

end Sys2Proof
end

