-- ==== Sys2Proof/Safety.lean ====
section
/-! DEFINITION. What counts as a sound state, a host that keeps its duties, a run that ended well, and what of a state
the spec gives a meaning; the terms the statements use. -/

namespace Sys2Proof

open Sys2Proof.Machine

/-- What holds of STATUS in every run: the order of the stages (10_state.md R15), and ERRCODE 0 exactly while ERR is
0, never 4 to 7 (R14, 60_exceptions.md R191, R193). -/
structure StatusSound (st : Status) : Prop where
  infoNeedsHdr      : st.infoValid = true → st.hdrValid = true
  segNeedsInfo      : st.segValid = true → st.infoValid = true
  doneNeedsSeg      : st.ftrDone = true → st.segValid = true
  presentNeedsDone  : st.ftrPresent = true → st.ftrDone = true
  truncNeedsSeg     : st.trunc = true → st.segValid = true
  miscNeedsSeg      : st.miscDeclAbsent = true → st.segValid = true
  errHasCode        : st.err = true ↔ st.errCode ≠ 0
  codeNamed         : st.errCode.toNat ≤ 3

/-- What holds of a state in every run: STATUS is sound, IMG is in its canonical form, the configuration is well
formed, each stage whose valid bit is 1 holds the results of its inputs as they stand now (10_state.md R14, R15), and
segments are only ever laid out over an image the host has filled (70_reset R215). -/
structure Sound (s : State) : Prop where
  status       : StatusSound s.status
  img          : s.img.wf = true
  layout       : s.config.ftrLayout.wellFormed = true
  info         : s.status.infoValid = true → s.info = decodeHeader s.hdr
  filled       : s.status.segValid = true → ∀ a, a < s.fileLen.toNat → (s.img.read a).isSome = true
  segLength    : s.status.segValid = true → headerLen ≤ s.fileLen.toNat
  seg          : s.status.segValid = true → s.seg = (segmentWalk s.info s.fileLen.toNat).seg
  trunc        : s.status.segValid = true → s.status.trunc = (segmentWalk s.info s.fileLen.toNat).trunc
  misc         : s.status.segValid = true →
    s.status.miscDeclAbsent = (segmentWalk s.info s.fileLen.toNat).miscDeclAbsent
  footerOffset : s.status.ftrDone = true → footerSearched s = true →
    s.ftr.offset = BitVec.ofNat 64 (footerCandidate s)
  footer       : s.status.ftrPresent = true →
    footerSearched s = true ∧ ∃ F, parseFooter s.config.ftrLayout (footerCandidate s) F = some s.ftr

/-- The host has filled IMG up to FILE_LEN (70_reset R211, R215), IMG being in its canonical form. -/
def ImgFilled (s : State) : Prop :=
  s.img.wf = true ∧ ∀ a, a < s.fileLen.toNat → (s.img.read a).isSome = true

/-- A transaction asks for nothing outside the 64-bit address space (20_memory.md R40). -/
def txnLegal (tx : HostTxn) : Bool :=
  match tx with
  | .imgPlace addr bytes => decide (addr.toNat + bytes.length ≤ 2 ^ 64)
  | .writeReg _ _ | .readReg _ | .reset => true

/-- A run of the analysis ended well: no fault is recorded and every stage is valid (40_control.md R98). -/
def EndedWell (s : State) : Prop :=
  s.status.err = false ∧ s.status.hdrValid = true ∧ s.status.infoValid = true ∧ s.status.segValid = true
    ∧ s.status.ftrDone = true

/-- Two states that differ in nothing the spec gives a meaning: the registers of a stage count only while its valid
bit is 1 (10_state.md R11, R18, R20, R22; 93 U7). -/
structure SameView (s t : State) : Prop where
  fileLen   : s.fileLen = t.fileLen
  status    : s.status = t.status
  img       : s.img = t.img
  port      : s.port = t.port
  config    : s.config = t.config
  hdr       : s.status.hdrValid = true → s.hdr = t.hdr
  info      : s.status.infoValid = true → s.info = t.info
  seg       : s.status.segValid = true → s.seg = t.seg
  ftrOffset : s.status.ftrDone = true → footerSearched s = true → s.ftr.offset = t.ftr.offset
  ftr       : s.status.ftrPresent = true → s.ftr = t.ftr

/-- One step of the segment walk over a file of `n` bytes, as a relation: the descriptor `d` of a segment reached with
running offset `off` and truncation flag `trunc`, and the two after it (42_layout.md R142, R148). -/
def SegStep (n off : Nat) (trunc : Bool) (declared : Nat) (d : SegDesc) (off' : Nat) (trunc' : Bool) : Prop :=
  d.offset.toNat = off ∧ d.length.toNat = declared ∧
    if declared = 0 then d.present = false ∧ off' = off ∧ trunc' = trunc
    else if trunc = true then d.present = false ∧ off' = off ∧ trunc' = true
    else if n - off ≥ declared then d.present = true ∧ off' = off + declared ∧ trunc' = false
    else d.present = false ∧ off' = off ∧ trunc' = true

/-- The length of a segment if it is present, else 0 (42_layout.md R151 c). -/
def presentLength (d : SegDesc) : Nat := if d.present = true then d.length.toNat else 0

/-- The host placed `F` at `addr` and the 25 addresses after it (43_footer.md R163). -/
def FooterAt (s : State) (addr : Nat) (F : FooterBytes) : Prop :=
  ∀ k (hk : k < 26), s.img.read (addr + k) = some F[k]

/-- The host placed the header `h` at addresses 0 to 15 (20_memory.md R40). -/
def HeaderAt (s : State) (h : Header) : Prop := ∀ n (hn : n < 16), s.img.read n = some h[n]

/-- Executing a list of commands one after the other, stopping where one stops (40_control.md R96: the order is the
host's). -/
def runCommands (is : List Instr) (s : State) : Result :=
  match is with
  | [] => .next s
  | i :: rest =>
    match exec i s with
    | .next t => runCommands rest t
    | .fault f => .fault f
    | .refused r => .refused r

end Sys2Proof
end

