-- ==== Sys2Proof/Certificates/Slice0/Obligations.lean ====
section
/-! DEFINITION. The statements for the provers. Each docstring names the rule of spec/ it formalises; where a
statement rests on a position the spec marks as general knowledge, or on a rule the spec marks as derived, the
docstring says so. -/

open Sys2Proof Sys2Proof.Machine

/-! ### The command word -/

/-- R56, R57: a few words, decoded as the opcode map says. -/
def Obligations.OpcodeMapWords : Prop :=
  decode? 0b00000000 = some .nop ∧ decode? 0b00000001 = some .ldhdr ∧ decode? 0b00000010 = some .decode ∧
    decode? 0b00000011 = some .layout ∧ decode? 0b00000100 = some .footer ∧ decode? 0b00000101 = some .resolve ∧
    decode? 0b00000110 = some .clr ∧ decode? 0b00000111 = none ∧ decode? 0b00001000 = none ∧
    decode? 0b11111111 = none

/-- R57: the decoder is total, each word is one command's or illegal, and decoding an encoded command gives it
back. -/
def Obligations.DecodeInvertsEncode : Prop :=
  (∀ i, decode (encode i) = .ok i) ∧ (∀ c i, decode c = .ok i → c = encode i) ∧
    ∀ c : Byte, decode? c = none ↔ 7 ≤ c.toNat

/-- R16, R46: a host write of CMD runs the command its low byte encodes, as one step. -/
def Obligations.StepRunsTheCommand : Prop :=
  ∀ (s : State) (data : BitVec 64) (rest : List HostTxn) (i : Instr),
    s.port = .writeReg 0x01 data :: rest → decode? (data.setWidth 8) = some i →
      step s = exec i { s with port := rest }

/-- R46, R57, R210: every other step: with nothing pending the block is idle, an illegal word raises, and every other
transaction is carried out whole. -/
def Obligations.StepCarriesOutTransactions : Prop :=
  ∀ s : State,
    (s.port = [] → step s = .next s) ∧
    (∀ data rest, s.port = .writeReg 0x01 data :: rest → decode? (data.setWidth 8) = none →
      step s = execIllegal { s with port := rest }) ∧
    (∀ no data rest, s.port = .writeReg no data :: rest → no ≠ 0x01 →
      step s = .next (hostWrite { s with port := rest } no data)) ∧
    (∀ no rest, s.port = .readReg no :: rest → step s = .next (hostRead { s with port := rest } no)) ∧
    (∀ addr bytes rest, s.port = .imgPlace addr bytes :: rest →
      step s = hostPlace { s with port := rest } addr bytes) ∧
    ∀ rest, s.port = .reset :: rest → step s = .next (clearBlock { s with port := rest })

/-! ### Reset, NOP, CLR, LDHDR -/

/-- R27: after reset, and after CLR, STATUS and FILE_LEN are 0, CMD reads 0, no other register is specified, and IMG is
as it was. -/
def Obligations.ResetSpecifiesStatusAndLength : Prop :=
  State.reset.status.word = 0x0000 ∧ State.reset.fileLen = 0 ∧ regValue State.reset .cmd = 0 ∧
    (∀ r, regSpecified State.reset r = true ↔ r = .fileLen ∨ r = .cmd ∨ r = .status) ∧
    ∀ s : State, ∃ t, runTxn .reset s = .next t ∧ exec .clr s = .next t ∧
      (∀ r, regSpecified t r = true ↔ r = .fileLen ∨ r = .cmd ∨ r = .status) ∧
      SameView t { State.reset with img := s.img, port := s.port, config := s.config }

/-- R91. -/
def Obligations.NopChangesNothing : Prop :=
  encode .nop = 0x00 ∧ ∀ s : State, exec .nop s = .next s

/-- R92: CLR completes in every state, while ERR is 1 too; the state after it is the reset state, as far as the spec
specifies it, with IMG as it was. -/
def Obligations.ClrRestoresReset : Prop :=
  encode .clr = 0x06 ∧
    ∀ s : State, ∃ t, exec .clr s = .next t ∧ t.status.word = 0x0000 ∧ t.fileLen = 0 ∧
      (∀ r, regSpecified t r = true ↔ r = .fileLen ∨ r = .cmd ∨ r = .status) ∧
      SameView t { State.reset with img := s.img, port := s.port, config := s.config } ∧
      (∀ a, t.img.read a = s.img.read a) ∧ t.port = s.port ∧ t.rdata = s.rdata ∧ t.config = s.config

/-- R93, over an image the host filled up to FILE_LEN (R215): LDHDR latches the image's first sixteen bytes, sets
HDR_VALID, clears the six later flags and changes nothing else; with FILE_LEN below 16 it raises ShortImage. -/
def Obligations.LdhdrLatchesHeader : Prop :=
  encode .ldhdr = 0x01 ∧
    ∀ s : State, s.status.err = false →
      (s.fileLen.toNat < 16 →
        exec .ldhdr s = .next { s with status := { s.status with err := true, errCode := 3 } }) ∧
      ∀ h : Header, 16 ≤ s.fileLen.toNat → ImgFilled s → HeaderAt s h →
        ∃ t, exec .ldhdr s = .next t ∧ t.hdr = h ∧
          t.status = { s.status with hdrValid := true, infoValid := false, segValid := false, ftrDone := false,
                                     ftrPresent := false, trunc := false, miscDeclAbsent := false } ∧
          t.fileLen = s.fileLen ∧ t.info = s.info ∧ t.seg = s.seg ∧ t.ftr = s.ftr ∧
          (∀ a, t.img.read a = s.img.read a) ∧ t.port = s.port ∧ t.rdata = s.rdata ∧ t.draw = s.draw ∧
          t.config = s.config

/-! ### DECODE -/

/-- R102, with the flags of R100: DECODE completes for every HDR and leaves in every INFO register a value that depends
on HDR alone, sets INFO_VALID, clears the five later flags and changes nothing else; without a latched header it raises
Sequence. What each register gets is the subject of the statements that follow. -/
def Obligations.DecodeWritesInfo : Prop :=
  encode .decode = 0x02 ∧
    ∀ s : State, s.status.err = false →
      (s.status.hdrValid = false →
        exec .decode s = .next { s with status := { s.status with err := true, errCode := 2 } }) ∧
      (s.status.hdrValid = true →
        ∃ t, exec .decode s = .next t ∧ t.info = decodeHeader s.hdr ∧
          t.status = { s.status with infoValid := true, segValid := false, ftrDone := false, ftrPresent := false,
                                     trunc := false, miscDeclAbsent := false } ∧
          t.fileLen = s.fileLen ∧ t.hdr = s.hdr ∧ t.seg = s.seg ∧ t.ftr = s.ftr ∧
          (∀ a, t.img.read a = s.img.read a) ∧ t.port = s.port ∧ t.rdata = s.rdata ∧ t.draw = s.draw ∧
          t.config = s.config)

/-- R101: DECODE sets IS_EXTENDED to 1 when bit 3 of byte 7 is set and bit 2 is clear, else to 0. -/
def Obligations.FormatDiscriminator : Prop :=
  ∀ s : State, s.status.err = false → s.status.hdrValid = true →
    ∃ t, exec .decode s = .next t ∧ t.info.isExtended = (s.hdr[7].getLsbD 3 && !s.hdr[7].getLsbD 2)

/-- R107: DECODE sets MAPPER to `n2*256 + n1*16 + n0`, n2 from byte 8 only when extended. -/
def Obligations.MapperFromNibbles : Prop :=
  ∀ s : State, s.status.err = false → s.status.hdrValid = true →
    ∃ t, exec .decode s = .next t ∧
      t.info.mapper.toNat =
        (if t.info.isExtended = true then s.hdr[8].toNat % 16 else 0) * 256 + s.hdr[7].toNat / 16 * 16
          + s.hdr[6].toNat / 16

/-- R104: the exponent/multiplier size, with the ceiling on E; no result reaches 2^64. -/
def Obligations.ExponentMultiplierSize : Prop :=
  ∀ x : Byte, expmul x = (if x.toNat / 4 > 61 then 0 else 2 ^ (x.toNat / 4) * (2 * (x.toNat % 4) + 1)) ∧
    expmul x < 2 ^ 64

/-- R103: the linear count, 8 bits or 12, or the exponent/multiplier form behind the sentinel 15. -/
def Obligations.RomSizeFormula : Prop :=
  ∀ (high : BitVec 4) (low : Byte) (unit : Nat),
    romSize false high low unit = low.toNat * unit ∧
    (high.toNat = 15 → romSize true high low unit = expmul low) ∧
    (high.toNat ≠ 15 → romSize true high low unit = (high.toNat * 256 + low.toNat) * unit)

/-- 41_decode.md section 4 (R113, R114; the nibble of byte 9 is general knowledge, log 11): DECODE leaves in PRG_SIZE and
CHR_SIZE their formulas' values, without wrapping. -/
def Obligations.RomSizesOfHeader : Prop :=
  ∀ s : State, s.status.err = false → s.status.hdrValid = true →
    ∃ t, exec .decode s = .next t ∧
      t.info.prgSize.toNat =
        (if t.info.isExtended = false then s.hdr[4].toNat * 16384
         else if s.hdr[9].toNat % 16 = 15 then
           (if s.hdr[4].toNat / 4 > 61 then 0 else 2 ^ (s.hdr[4].toNat / 4) * (2 * (s.hdr[4].toNat % 4) + 1))
         else (s.hdr[9].toNat % 16 * 256 + s.hdr[4].toNat) * 16384) ∧
      t.info.chrSize.toNat =
        (if t.info.isExtended = false then s.hdr[5].toNat * 8192
         else if s.hdr[9].toNat / 16 = 15 then
           (if s.hdr[5].toNat / 4 > 61 then 0 else 2 ^ (s.hdr[5].toNat / 4) * (2 * (s.hdr[5].toNat % 4) + 1))
         else (s.hdr[9].toNat / 16 * 256 + s.hdr[5].toNat) * 8192)

/-- 41_decode.md section 5 (R115 to R118; the nibbles of bytes 10 and 11 and the battery bit are general knowledge,
log 11): the four RAM sizes, each 0 or `64 << shift`, the save-RAM sizes gated by the battery. -/
def Obligations.RamSizesOfHeader : Prop :=
  ∀ s : State, s.status.err = false → s.status.hdrValid = true →
    let size := fun n : Nat => if n = 0 then 0 else 64 * 2 ^ n
    ∃ t, exec .decode s = .next t ∧
      t.info.prgRamSize.toNat = (if t.info.isExtended = true then size (s.hdr[10].toNat % 16) else 0) ∧
      t.info.chrRamSize.toNat = (if t.info.isExtended = true then size (s.hdr[11].toNat % 16) else 0) ∧
      t.info.prgSaveRamSize.toNat =
        (if t.info.isExtended = true ∧ s.hdr[6].getLsbD 1 = true then size (s.hdr[10].toNat / 16) else 0) ∧
      t.info.chrSaveRamSize.toNat =
        (if t.info.isExtended = true ∧ s.hdr[6].getLsbD 1 = true then size (s.hdr[11].toNat / 16) else 0)

/-- 41_decode.md sections 3 and 5 (R108 to R111, R119 to R121; their bit positions are general knowledge, log 11): the
small fields of bytes 6 to 8 and 12 to 14. -/
def Obligations.SmallFieldsOfHeader : Prop :=
  ∀ s : State, s.status.err = false → s.status.hdrValid = true →
    ∃ t, exec .decode s = .next t ∧
      t.info.submapper.toNat = (if t.info.isExtended = true then s.hdr[8].toNat / 16 else 0) ∧
      t.info.mirroring.toNat = s.hdr[6].toNat % 2 ∧ t.info.hasBattery = s.hdr[6].getLsbD 1 ∧
      t.info.hasTrainer = s.hdr[6].getLsbD 2 ∧ t.info.hasFourScreenVram = s.hdr[6].getLsbD 3 ∧
      t.info.consoleType.toNat = s.hdr[7].toNat % 4 ∧
      t.info.frameTiming.toNat = (if t.info.isExtended = true then s.hdr[12].toNat % 4 else 0) ∧
      t.info.consoleSub2.toNat =
        (if t.info.isExtended = true ∧ (s.hdr[7].toNat % 4 = 1 ∨ s.hdr[7].toNat % 4 = 3) then s.hdr[13].toNat % 16
         else 0) ∧
      t.info.consoleSub3.toNat =
        (if t.info.isExtended = true ∧ (s.hdr[7].toNat % 4 = 1 ∨ s.hdr[7].toNat % 4 = 3) then s.hdr[13].toNat / 16
         else 0) ∧
      t.info.miscRomCount.toNat = (if t.info.isExtended = true then s.hdr[14].toNat % 4 else 0)

/-- R122: DECODE leaves the expansion device clamped; for every value of EXPDEV_KNOWN_MAX. -/
def Obligations.ExpansionDeviceClamped : Prop :=
  ∀ s : State, s.status.err = false → s.status.hdrValid = true →
    ∃ t, exec .decode s = .next t ∧
      t.info.expansionDevice.toNat =
        (if t.info.isExtended = false then 0
         else if s.hdr[15].toNat ≤ Config.expdevKnownMax.val then s.hdr[15].toNat
         else Config.expdevKnownMax.val + 1)

/-- R124, R125: the two fields of the old format, 0 when extended. -/
def Obligations.LegacyFieldsOfHeader : Prop :=
  ∀ s : State, s.status.err = false → s.status.hdrValid = true →
    ∃ t, exec .decode s = .next t ∧
      t.info.prgRamSize8k = (if t.info.isExtended = true then (0 : Byte) else s.hdr[8]) ∧
      t.info.isPalLegacy = (if t.info.isExtended = true then false else s.hdr[9].getLsbD 0)

/-- 10_state.md section 6 (R19, which the spec marks as derived): after a completed DECODE the fields of the other
format are 0. -/
def Obligations.FormatFieldsExclusive : Prop :=
  ∀ s t : State, s.status.err = false → s.status.hdrValid = true → exec .decode s = .next t →
    (t.info.isExtended = true → t.info.prgRamSize8k = 0 ∧ t.info.isPalLegacy = false) ∧
    (t.info.isExtended = false →
      t.info.submapper = 0 ∧ t.info.mapper.toNat < 256 ∧ t.info.prgRamSize = 0 ∧ t.info.chrRamSize = 0 ∧
      t.info.prgSaveRamSize = 0 ∧ t.info.chrSaveRamSize = 0 ∧ t.info.frameTiming = 0 ∧ t.info.consoleSub2 = 0 ∧
      t.info.consoleSub3 = 0 ∧ t.info.miscRomCount = 0 ∧ t.info.expansionDevice = 0)

/-- 30_encoding.md section 2.1 (R69, whose bits of bytes 12 and 14 rest on log 11): two headers that differ only in bits
no rule reads give the same INFO registers. -/
def Obligations.UnreadHeaderBits : Prop :=
  ∀ s s' : State, s.status.err = false → s.status.hdrValid = true → s'.status.err = false → s'.status.hdrValid = true →
    s.hdr[4] = s'.hdr[4] → s.hdr[5] = s'.hdr[5] → s.hdr[6] = s'.hdr[6] → s.hdr[7] = s'.hdr[7] →
    s.hdr[8] = s'.hdr[8] →
      ∃ t t', exec .decode s = .next t ∧ exec .decode s' = .next t' ∧
        (t.info.isExtended = false → s.hdr[9].getLsbD 0 = s'.hdr[9].getLsbD 0 → t.info = t'.info) ∧
        (s.hdr[9] = s'.hdr[9] → s.hdr[10] = s'.hdr[10] → s.hdr[11] = s'.hdr[11] →
          s.hdr[12].toNat % 4 = s'.hdr[12].toNat % 4 → s.hdr[13] = s'.hdr[13] →
          s.hdr[14].toNat % 4 = s'.hdr[14].toNat % 4 → s.hdr[15] = s'.hdr[15] → t.info = t'.info)

/-! ### LAYOUT -/

/-- R140, over an image the host filled up to FILE_LEN (R215): LAYOUT walks Header, Trainer, ProgramRom, CharacterRom and
Miscellaneous, writes the five descriptors, TRUNC and MISC_DECL_ABSENT, sets SEG_VALID, clears FTR_DONE and FTR_PRESENT,
and changes nothing else; its two faults. -/
def Obligations.LayoutWalksSegments : Prop :=
  encode .layout = 0x03 ∧
    ∀ s : State, s.status.err = false →
      (s.status.infoValid = false →
        exec .layout s = .next { s with status := { s.status with err := true, errCode := 2 } }) ∧
      (s.status.infoValid = true → s.fileLen.toNat < 16 →
        exec .layout s = .next { s with status := { s.status with err := true, errCode := 3 } }) ∧
      (s.status.infoValid = true → 16 ≤ s.fileLen.toNat → ImgFilled s →
        ∃ t o1 o2 o3 b1 b2 b3, exec .layout s = .next t ∧
          t.seg[0] = ⟨0, 16, true⟩ ∧
          SegStep s.fileLen.toNat 16 false (if s.info.hasTrainer = true then 512 else 0) t.seg[1] o1 b1 ∧
          SegStep s.fileLen.toNat o1 b1 s.info.prgSize.toNat t.seg[2] o2 b2 ∧
          SegStep s.fileLen.toNat o2 b2 s.info.chrSize.toNat t.seg[3] o3 b3 ∧
          t.seg[4].offset.toNat = o3 ∧
          (if b3 = false ∧ s.fileLen.toNat - o3 ≠ 0 then
             t.seg[4].length.toNat = s.fileLen.toNat - o3 ∧ t.seg[4].present = true
           else t.seg[4].length.toNat = 0 ∧ t.seg[4].present = false) ∧
          t.status = { s.status with trunc := b3, segValid := true, ftrDone := false, ftrPresent := false,
                                     miscDeclAbsent := decide (s.info.miscRomCount.toNat > 0) && !t.seg[4].present } ∧
          t.fileLen = s.fileLen ∧ t.hdr = s.hdr ∧ t.info = s.info ∧ t.ftr = s.ftr ∧
          (∀ a, t.img.read a = s.img.read a) ∧ t.port = s.port ∧ t.rdata = s.rdata ∧ t.draw = s.draw ∧
          t.config = s.config)

/-- 42_layout.md section 3 (R151 a, d, e and R146; R151 is marked derived there): offsets never fall, a present segment
is not empty, TRUNC says exactly that a declared segment is absent, and one short segment makes every later one
absent. -/
def Obligations.LayoutOrderAndTruncation : Prop :=
  ∀ s t : State, s.status.err = false → s.status.infoValid = true → 16 ≤ s.fileLen.toNat →
    exec .layout s = .next t →
      (∀ i j : Fin 5, i ≤ j → t.seg[i].offset.toNat ≤ t.seg[j].offset.toNat) ∧
      (∀ i : Fin 5, t.seg[i].present = true → 0 < t.seg[i].length.toNat) ∧
      (t.status.trunc = true ↔
        ∃ i : Fin 5, 1 ≤ i.val ∧ i.val ≤ 3 ∧ t.seg[i].length.toNat ≠ 0 ∧ t.seg[i].present = false) ∧
      ∀ i j : Fin 5, 1 ≤ i.val → i.val ≤ 3 → i < j → t.seg[i].length.toNat ≠ 0 → t.seg[i].present = false →
        t.seg[j].present = false

/-- 42_layout.md section 3 (R151 b, c, marked derived there): the present segments are disjoint and in index order, each
starting where the present one before it ended, inside the file, and their lengths sum to at most FILE_LEN, exactly
FILE_LEN when TRUNC is 0. -/
def Obligations.LayoutSegmentsTileTheFile : Prop :=
  ∀ s t : State, s.status.err = false → s.status.infoValid = true → 16 ≤ s.fileLen.toNat →
    exec .layout s = .next t →
      (∀ i j : Fin 5, i < j → t.seg[i].present = true → t.seg[j].present = true →
        t.seg[i].offset.toNat + t.seg[i].length.toNat ≤ t.seg[j].offset.toNat) ∧
      (∀ i j : Fin 5, i < j → t.seg[i].present = true → t.seg[j].present = true →
        (∀ k : Fin 5, i < k → k < j → t.seg[k].present = false) →
          t.seg[i].offset.toNat + t.seg[i].length.toNat = t.seg[j].offset.toNat) ∧
      (∀ i : Fin 5, t.seg[i].present = true →
        t.seg[i].offset.toNat + t.seg[i].length.toNat ≤ s.fileLen.toNat) ∧
      presentLength t.seg[0] + presentLength t.seg[1] + presentLength t.seg[2] + presentLength t.seg[3]
        + presentLength t.seg[4] ≤ s.fileLen.toNat ∧
      (t.status.trunc = false →
        presentLength t.seg[0] + presentLength t.seg[1] + presentLength t.seg[2] + presentLength t.seg[3]
          + presentLength t.seg[4] = s.fileLen.toNat)

/-! ### FOOTER and RESOLVE -/

/-- R164, R165, and the validity R166 makes of them: the eight bytes from 0x12 sum to 0 modulo 256 and the ten from 0x10
are not all zero. -/
def Obligations.FooterValidity : Prop :=
  ∀ F : FooterBytes, footerValid F = true ↔
    (F[0x12].toNat + F[0x13].toNat + F[0x14].toNat + F[0x15].toNat + F[0x16].toNat + F[0x17].toNat + F[0x18].toNat
      + F[0x19].toNat) % 256 = 0 ∧ ∃ k : Fin 26, 0x10 ≤ k.val ∧ F[k] ≠ 0

/-- 43_footer.md section 4 (the computations of R173, R174; the registers they go to are in FooterAccepted): the footer's
sizes are the table of R72 in bytes, with the two overrides at its entry 8 KiB. -/
def Obligations.FooterSizeOverrides : Prop :=
  let T : List Nat := [8192, 16384, 32768, 131072, 262144, 524288, 1048576, 2097152]
  ∀ (idx : BitVec 3) (mapper : Nat) (chrRam : Bool),
    footerPrgSize idx mapper = (if idx = 0 ∧ mapper ≥ 2 then 65536 else T.getD idx.toNat 0) ∧
    footerChrSize idx mapper chrRam =
      (if idx = 0 ∧ mapper = 4 ∧ chrRam = false then 65536 else T.getD idx.toNat 0)

/-- R161: when ProgramRom is absent or PRG_SIZE is below 32 the footer is not looked for: FTR_DONE 1, FTR_PRESENT 0, no
byte of IMG is needed, and nothing but the FTR registers (which the spec then leaves unspecified) changes. -/
def Obligations.FooterNotLookedFor : Prop :=
  ∀ s : State, s.status.err = false → s.status.segValid = true →
    ¬ (s.seg[2].present = true ∧ 32 ≤ s.info.prgSize.toNat) →
      ∃ t, exec .footer s = .next t ∧ t.status = { s.status with ftrDone := true, ftrPresent := false } ∧
        (∀ r, regSpecified t (.ftr r) = false) ∧
        t.fileLen = s.fileLen ∧ t.hdr = s.hdr ∧ t.info = s.info ∧ t.seg = s.seg ∧
        (∀ a, t.img.read a = s.img.read a) ∧ t.port = s.port ∧ t.rdata = s.rdata ∧ t.config = s.config

/-- R168, R162, R166, R169, for every FTR_LAYOUT: a candidate whose sum is not 0, whose ten bytes are all zero, or whose
title length is above 16 is rejected; only FTR.OFFSET then has a meaning. -/
def Obligations.FooterRejected : Prop :=
  ∀ (s : State) (F : FooterBytes), s.status.err = false → s.status.segValid = true → s.seg[2].present = true →
    32 ≤ s.info.prgSize.toNat → 26 ≤ s.seg[2].length.toNat →
    s.seg[2].offset.toNat + s.seg[2].length.toNat ≤ s.fileLen.toNat →
    FooterAt s (s.seg[2].offset.toNat + s.seg[2].length.toNat - 26) F →
    (footerValid F = false ∨ 16 ≤ F[s.config.ftrLayout.tlen].toNat) →
      ∃ t, exec .footer s = .next t ∧ t.status = { s.status with ftrDone := true, ftrPresent := false } ∧
        t.ftr.offset.toNat = s.seg[2].offset.toNat + s.seg[2].length.toNat - 26 ∧
        (∀ r, regSpecified t (.ftr r) = true ↔ r = .offset) ∧
        t.fileLen = s.fileLen ∧ t.hdr = s.hdr ∧ t.info = s.info ∧ t.seg = s.seg ∧
        (∀ a, t.img.read a = s.img.read a) ∧ t.port = s.port ∧ t.rdata = s.rdata ∧ t.config = s.config

/-- R160, R169 to R177, for every FTR_LAYOUT (the bits of the size and board bytes are general knowledge, log 9): an
accepted candidate fills every FTR register, each single byte taken from its place in the layout, sets FTR_DONE and
FTR_PRESENT, and nothing else changes. -/
def Obligations.FooterAccepted : Prop :=
  ∀ (s : State) (F : FooterBytes), let l := s.config.ftrLayout
    s.status.err = false → s.status.segValid = true → s.seg[2].present = true →
    32 ≤ s.info.prgSize.toNat → 26 ≤ s.seg[2].length.toNat →
    s.seg[2].offset.toNat + s.seg[2].length.toNat ≤ s.fileLen.toNat →
    FooterAt s (s.seg[2].offset.toNat + s.seg[2].length.toNat - 26) F →
    footerValid F = true → F[l.tlen].toNat < 16 →
      ∃ t, exec .footer s = .next t ∧ t.status = { s.status with ftrDone := true, ftrPresent := true } ∧
        t.ftr.offset.toNat = s.seg[2].offset.toNat + s.seg[2].length.toNat - 26 ∧
        (∀ k : Fin 16, t.ftr.title[k] =
          if F[l.enc] ≠ 0 ∧ 0x20 ≤ F[k.val].toNat ∧ F[k.val].toNat ≤ 0x5A then F[k.val] else 0x20) ∧
        t.ftr.titleLen.toNat = (if F[l.tlen] = 0 then 0 else F[l.tlen].toNat + 1) ∧
        t.ftr.titleEnc = F[l.enc] ∧ t.ftr.sum1B0 = F[0x10] ∧ t.ftr.sum1B1 = F[0x11] ∧ t.ftr.sum2B0 = F[0x12] ∧
        t.ftr.sum2B1 = F[0x13] ∧ t.ftr.sizeCode = F[l.size] ∧ t.ftr.chrRam = F[l.size].getLsbD 3 ∧
        t.ftr.mirroring.toNat = F[l.board].toNat / 128 ∧ t.ftr.mapper.toNat = F[l.board].toNat % 128 ∧
        t.ftr.prgSize.toNat = footerPrgSize (F[l.size].extractLsb' 4 3) (F[l.board].toNat % 128) ∧
        t.ftr.chrSize.toNat =
          footerChrSize (F[l.size].extractLsb' 0 3) (F[l.board].toNat % 128) (F[l.size].getLsbD 3) ∧
        t.ftr.maker = F[l.maker] ∧ t.ftr.checksum = F[l.cksum] ∧
        t.fileLen = s.fileLen ∧ t.hdr = s.hdr ∧ t.info = s.info ∧ t.seg = s.seg ∧
        (∀ a, t.img.read a = s.img.read a) ∧ t.port = s.port ∧ t.rdata = s.rdata ∧ t.draw = s.draw ∧
        t.config = s.config

/-- 43_footer.md section 4 (R179 a, b, d, marked derived there): what FTR_PRESENT = 1 after FOOTER or RESOLVE implies,
for every well-formed FTR_LAYOUT. -/
def Obligations.FooterPresentImplies : Prop :=
  ∀ (s t : State) (i : Instr), i = .footer ∨ i = .resolve → s.config.ftrLayout.wellFormed = true →
    s.status.err = false → exec i s = .next t → t.status.err = false → t.status.ftrPresent = true →
      t.seg[2].present = true ∧ 32 ≤ t.info.prgSize.toNat ∧ t.ftr.titleLen.toNat ≤ 16 ∧ t.ftr.titleLen ≠ 1 ∧
      (∀ k : Fin 16, 0x20 ≤ t.ftr.title[k].toNat ∧ t.ftr.title[k].toNat ≤ 0x5A) ∧
      t.ftr.prgSize.toNat ∈ [8192, 16384, 32768, 65536, 131072, 262144, 524288, 1048576, 2097152] ∧
      t.ftr.chrSize.toNat ∈ [8192, 16384, 32768, 65536, 131072, 262144, 524288, 1048576, 2097152] ∧
      ¬ (t.ftr.sum1B0 = 0 ∧ t.ftr.sum1B1 = 0 ∧ t.ftr.sum2B0 = 0 ∧ t.ftr.sum2B1 = 0 ∧ t.ftr.sizeCode = 0 ∧
        t.ftr.mapper = 0 ∧ t.ftr.mirroring = 0 ∧ t.ftr.titleEnc = 0 ∧ t.ftr.titleLen = 0 ∧ t.ftr.maker = 0 ∧
        t.ftr.checksum = 0)

/-- R180: RESOLVE is LAYOUT then FOOTER as one command, after LAYOUT's two checks; over an image the host filled it
completes, and changes SEG, FTR and STATUS alone. -/
def Obligations.ResolveIsLayoutThenFooter : Prop :=
  encode .resolve = 0x05 ∧
    ∀ s : State, s.status.err = false →
      (s.status.infoValid = false →
        exec .resolve s = .next { s with status := { s.status with err := true, errCode := 2 } }) ∧
      (s.status.infoValid = true → s.fileLen.toNat < 16 →
        exec .resolve s = .next { s with status := { s.status with err := true, errCode := 3 } }) ∧
      (s.status.infoValid = true → 16 ≤ s.fileLen.toNat →
        ∀ u, exec .layout s = .next u → exec .resolve s = exec .footer u) ∧
      (s.status.infoValid = true → 16 ≤ s.fileLen.toNat → ImgFilled s →
        ∃ u t, exec .layout s = .next u ∧ exec .footer u = .next t ∧ exec .resolve s = .next t ∧
          t.seg = u.seg ∧ t.status = { u.status with ftrDone := true, ftrPresent := t.status.ftrPresent } ∧
          t.fileLen = s.fileLen ∧ t.hdr = s.hdr ∧ t.info = s.info ∧
          (∀ a, t.img.read a = s.img.read a) ∧ t.port = s.port ∧ t.rdata = s.rdata ∧ t.config = s.config)

/-! ### Faults -/

/-- R192: a word with a bit of 7:3 set or with OP 0b111 raises IllegalCommand, before any precondition. -/
def Obligations.IllegalWordRaises : Prop :=
  ∀ (s : State) (c : Byte), s.status.err = false → (c.extractLsb' 3 5 ≠ 0 ∨ c.extractLsb' 0 3 = 0b111) →
    runWord c s = .next { s with status := { s.status with err := true, errCode := 1 } }

/-- R195: when each command raises Sequence; R197: Sequence wins over ShortImage, FILE_LEN is not looked at. -/
def Obligations.SequenceRaised : Prop :=
  ∀ s : State, s.status.err = false →
    let raised : Result := .next { s with status := { s.status with err := true, errCode := 2 } }
    (s.status.hdrValid = false → exec .decode s = raised) ∧
    (s.status.infoValid = false → exec .layout s = raised) ∧
    (s.status.infoValid = false → exec .resolve s = raised) ∧
    (s.status.segValid = false → exec .footer s = raised)

/-- R196: LDHDR, LAYOUT and RESOLVE raise ShortImage when FILE_LEN is below 16. -/
def Obligations.ShortImageRaised : Prop :=
  ∀ s : State, s.status.err = false → s.fileLen.toNat < 16 →
    let raised : Result := .next { s with status := { s.status with err := true, errCode := 3 } }
    exec .ldhdr s = raised ∧ (s.status.infoValid = true → exec .layout s = raised ∧ exec .resolve s = raised)

/-- R193: the state after a faulting command is the state before it plus ERR and ERRCODE, whatever the word. -/
def Obligations.FaultsArePrecise : Prop :=
  ∀ (s t : State) (c : Byte), s.status.err = false → runWord c s = .next t → t.status.err = true →
    ∃ f : BlockFault, t = { s with status := { s.status with err := true, errCode := faultCode f } }

/-- R191, R197: which fault a command word records, in the order of priority, what it writes, and that it records none
otherwise; while ERR is 1 no further fault is recorded. -/
def Obligations.FaultPriority : Prop :=
  ∀ (s t : State) (c : Byte), runWord c s = .next t →
    let stageMissing :=
      (c = 0x02 ∧ s.status.hdrValid = false) ∨ ((c = 0x03 ∨ c = 0x05) ∧ s.status.infoValid = false) ∨
        (c = 0x04 ∧ s.status.segValid = false)
    let tooShort := (c = 0x01 ∨ c = 0x03 ∨ c = 0x05) ∧ s.fileLen.toNat < 16
    let raised := fun code : BitVec 3 => { s with status := { s.status with err := true, errCode := code } }
    (s.status.err = true → c ≠ 0x06 → t = s) ∧
    (s.status.err = true → c = 0x06 → t.status.err = false) ∧
    (s.status.err = false → 7 ≤ c.toNat → t = raised 1) ∧
    (s.status.err = false → c.toNat < 7 → stageMissing → t = raised 2) ∧
    (s.status.err = false → c.toNat < 7 → ¬ stageMissing → tooShort → t = raised 3) ∧
    (s.status.err = false → c.toNat < 7 → ¬ stageMissing → ¬ tooShort → t.status.err = false)

/-- R194: while ERR is 1 every word but CLR's is ignored; register reads work as usual; a write of FILE_LEN still acts
and leaves ERR and ERRCODE; only CLR and reset clear ERR, and CLR cannot fault. -/
def Obligations.FaultIsSticky : Prop :=
  ∀ s : State, s.status.err = true →
    (∀ c : Byte, c ≠ 0x06 → runWord c s = .next s) ∧
    (∀ r, regSpecified s r = true → ∃ t, runTxn (.readReg (BitVec.ofNat 8 (regNumber r))) s = .next t ∧
      t.rdata = regValue s r) ∧
    (∀ v, runTxn (.writeReg 0x00 v) s = .next
      { s with fileLen := v, status := { s.status with segValid := false, ftrDone := false, ftrPresent := false,
                                                       trunc := false, miscDeclAbsent := false } }) ∧
    (∃ t, runWord 0x06 s = .next t ∧ t.status.err = false ∧ t.status.errCode = 0) ∧
    (∀ tx t, runTxn tx s = .next t → t.status.err = true ∧ t.status.errCode = s.status.errCode ∨
      t.status.err = false ∧ (tx = .reset ∨ ∃ data : BitVec 64, tx = .writeReg 0x01 data ∧ data.setWidth 8 = 0x06#8))

/-! ### STATUS and the register space -/

/-- R14: the bits of STATUS; bits 15:11 read as 0. -/
def Obligations.StatusBits : Prop :=
  ∀ st : Status,
    st.word.getLsbD 0 = st.hdrValid ∧ st.word.getLsbD 1 = st.infoValid ∧ st.word.getLsbD 2 = st.segValid ∧
    st.word.getLsbD 3 = st.ftrDone ∧ st.word.getLsbD 4 = st.ftrPresent ∧ st.word.getLsbD 5 = st.trunc ∧
    st.word.getLsbD 6 = st.miscDeclAbsent ∧ st.word.getLsbD 7 = st.err ∧ st.word.extractLsb' 8 3 = st.errCode ∧
    st.word.extractLsb' 11 5 = 0

/-- R17: a host write of FILE_LEN stores the value, clears SEG_VALID, FTR_DONE, FTR_PRESENT, TRUNC and
MISC_DECL_ABSENT, also when the value is the old one, and changes nothing else. -/
def Obligations.FileLenWrite : Prop :=
  ∀ (s : State) (v : BitVec 64), ∃ t, runTxn (.writeReg 0x00 v) s = .next t ∧ t.fileLen = v ∧
    t.status = { s.status with segValid := false, ftrDone := false, ftrPresent := false, trunc := false,
                               miscDeclAbsent := false } ∧
    t.hdr = s.hdr ∧ t.info = s.info ∧ t.seg = s.seg ∧ t.ftr = s.ftr ∧ t.img = s.img ∧ t.port = s.port ∧
    t.rdata = s.rdata ∧ t.draw = s.draw ∧ t.config = s.config

/-- R24: the register space. A read of a specified register returns its value; of an unspecified one, a value of its
width; of an unassigned number, some value; a read changes no register. Writes act on FILE_LEN and CMD, taking the low
64 or low 8 bits of the data; a write to any other number has no effect. -/
def Obligations.RegisterSpace : Prop :=
  (∀ (s : State) (r : Reg), ∃ t, runTxn (.readReg (BitVec.ofNat 8 (regNumber r))) s = .next t ∧
    (regSpecified s r = true → t.rdata = regValue s r) ∧ t.rdata.toNat < 2 ^ regWidth r) ∧
  (∀ no : Fin 256, regOfNumber no.val = none ↔
    (0x03 ≤ no.val ∧ no.val ≤ 0x0F) ∨ (0x35 ≤ no.val ∧ no.val ≤ 0x3F) ∨ no.val = 0x43 ∨ no.val = 0x47 ∨
      no.val = 0x4B ∨ no.val = 0x4F ∨ (0x53 ≤ no.val ∧ no.val ≤ 0x5F) ∨ 0x7F ≤ no.val) ∧
  (∀ (s : State) (no : BitVec 8), ∃ t, runTxn (.readReg no) s = .next t ∧
    t.fileLen = s.fileLen ∧ t.status = s.status ∧ t.hdr = s.hdr ∧ t.info = s.info ∧ t.seg = s.seg ∧ t.ftr = s.ftr ∧
    t.img = s.img ∧ t.port = s.port) ∧
  (∀ (s : State) (data : BitVec 64), ∃ t, runTxn (.writeReg 0x00 data) s = .next t ∧ t.fileLen = data ∧
    t.status = { s.status with segValid := false, ftrDone := false, ftrPresent := false, trunc := false,
                               miscDeclAbsent := false }) ∧
  (∀ (s : State) (data : BitVec 64), runTxn (.writeReg 0x01 data) s = runWord (data.setWidth 8) s) ∧
  ∀ (s : State) (no : BitVec 8) (data : BitVec 64), no ≠ 0x00 → no ≠ 0x01 → runTxn (.writeReg no data) s = .next s

/-- R40, R50: the host's placing of bytes changes the bytes it names, every other byte reads as before, and no register
changes. A placing that ends past the last 64-bit address stops the model (log 6). -/
def Obligations.HostPlacesBytes : Prop :=
  ∀ (s : State) (addr : BitVec 64) (bytes : List Byte),
    (addr.toNat + bytes.length ≤ 2 ^ 64 → ∃ t, runTxn (.imgPlace addr bytes) s = .next t ∧
      (∀ k (hk : k < bytes.length), t.img.read (addr.toNat + k) = some bytes[k]) ∧
      (∀ a, a < addr.toNat ∨ addr.toNat + bytes.length ≤ a → t.img.read a = s.img.read a) ∧
      t = { s with img := t.img }) ∧
    (2 ^ 64 < addr.toNat + bytes.length → runTxn (.imgPlace addr bytes) s = .fault .imgNoSuchAddress)

/-- 20_memory.md section 1 and 70_reset_and_hazards.md section 2 (R42, R215, 92 D38: the stop is the model's form of "no
step" and "no result", log 3): with one byte below FILE_LEN that the host never placed, each command that takes FILE_LEN
stops under a name of its own once its preconditions hold; FOOTER stops where its fetch has no meaning. -/
def Obligations.UnfilledImageGivesNoResult : Prop :=
  ∀ s : State, s.status.err = false →
    (∀ a, a < s.fileLen.toNat → s.img.read a = none → 16 ≤ s.fileLen.toNat →
      exec .ldhdr s = .fault .imgNotPlaced ∧
      (s.status.infoValid = true →
        exec .layout s = .fault .imgNotPlaced ∧ exec .resolve s = .fault .imgNotPlaced)) ∧
    (s.status.segValid = true → s.seg[2].present = true → 32 ≤ s.info.prgSize.toNat → 26 ≤ s.seg[2].length.toNat →
      (s.fileLen.toNat < s.seg[2].offset.toNat + s.seg[2].length.toNat →
        exec .footer s = .fault .imgBeyondFileLen) ∧
      ∀ k, k < 26 → s.seg[2].offset.toNat + s.seg[2].length.toNat ≤ s.fileLen.toNat →
        s.img.read (s.seg[2].offset.toNat + s.seg[2].length.toNat - 26 + k) = none →
          exec .footer s = .fault .imgNotPlaced)

/-- 70_reset_and_hazards.md section 2 (R215, 92 D38; log 3): with FILE_LEN above what the host placed no command that takes
FILE_LEN completes: its only next states are those of a fault recorded, then or before, and no result is written. -/
def Obligations.UnfilledImageCommandsNeverComplete : Prop :=
  ∀ (s t : State) (a : Nat) (i : Instr), a < s.fileLen.toNat → s.img.read a = none →
    i = .ldhdr ∨ i = .layout ∨ i = .resolve → exec i s = .next t →
      t.status.err = true ∧ t = { s with status := { s.status with err := true, errCode := t.status.errCode } }

/-- 00_scope.md section 4 (R7) and 10_state.md section 1 (R10: parameters are constants, not state): the configuration is
what it was after every step; after reset of the model FTR_LAYOUT has the default of R71 (general knowledge, log 9). -/
def Obligations.ConfigurationIsConstant : Prop :=
  (∀ s t : State, step s = .next t → t.config = s.config) ∧
    State.reset.config.ftrLayout = { size := 0x14, board := 0x15, enc := 0x16, tlen := 0x17, maker := 0x18, cksum := 0x19 }

/-! ### Whole-machine rules -/

/-- R15, "No command writes a field this table does not list for it": STATUS after a command that completed, command
by command; what LAYOUT, FOOTER and RESOLVE compute is left to their own statements. -/
def Obligations.StatusWriters : Prop :=
  ∀ (s t : State) (i : Instr), s.status.err = false → exec i s = .next t → t.status.err = false →
    let st := s.status
    let seg0 : Status := { st with segValid := false, ftrDone := false, ftrPresent := false, trunc := false,
                                   miscDeclAbsent := false }
    (i = .nop → t.status = st) ∧
    (i = .ldhdr → t.status = { seg0 with hdrValid := true, infoValid := false }) ∧
    (i = .decode → t.status = { seg0 with infoValid := true }) ∧
    (i = .layout → t.status = { st with segValid := true, ftrDone := false, ftrPresent := false,
                                        trunc := t.status.trunc, miscDeclAbsent := t.status.miscDeclAbsent }) ∧
    (i = .footer → t.status = { st with ftrDone := true, ftrPresent := t.status.ftrPresent }) ∧
    (i = .resolve → t.status = { st with segValid := true, ftrDone := true, ftrPresent := t.status.ftrPresent,
                                         trunc := t.status.trunc, miscDeclAbsent := t.status.miscDeclAbsent }) ∧
    (i = .clr → t.status = { hdrValid := false, infoValid := false, segValid := false, ftrDone := false,
                             ftrPresent := false, trunc := false, miscDeclAbsent := false, err := false,
                             errCode := 0 })

/-- 10_state.md sections 2, 5 to 9 (parts of R11, R17, R18, R20, R22, R23): which command writes which registers; none
writes IMG. -/
def Obligations.EachRegisterHasItsWriter : Prop :=
  ∀ (s t : State) (i : Instr), exec i s = .next t →
    (∀ a, t.img.read a = s.img.read a) ∧ t.port = s.port ∧ t.rdata = s.rdata ∧ t.config = s.config ∧
    (i ≠ .clr → t.fileLen = s.fileLen) ∧
    (i ≠ .clr → i ≠ .ldhdr → t.hdr = s.hdr) ∧
    (i ≠ .clr → i ≠ .decode → t.info = s.info) ∧
    (i ≠ .clr → i ≠ .layout → i ≠ .resolve → t.seg = s.seg) ∧
    (i ≠ .clr → i ≠ .footer → i ≠ .resolve → t.ftr = s.ftr)

/-- 20_memory.md section 1 (R47, marked derived there): a command issued a second time completes and leaves the state
the first left, in everything the spec gives a meaning. -/
def Obligations.CommandsAreIdempotent : Prop :=
  ∀ (s t : State) (i : Instr), exec i s = .next t → ∃ u, exec i t = .next u ∧ SameView t u

/-- 20_memory.md section 1 (R44, marked derived there): no command reads past FILE_LEN. -/
def Obligations.NoReadPastFileLen : Prop :=
  ∀ (s : State) (i : Instr), Sound s → exec i s ≠ .fault .imgBeyondFileLen

/-- The state after reset is sound (R27, R15). -/
def Obligations.ResetIsSound : Prop := Sound State.reset

/-- R15, R14, with R44's range argument and R215: every step keeps a sound state sound. The stage-valid bits keep their
order, ERRCODE names a fault exactly while ERR is 1, IMG keeps its canonical form, the configuration its well-formed
layout, each valid stage holds the results of its inputs as they stand, and SEG is valid only over a filled image. -/
def Obligations.StepKeepsSound : Prop :=
  ∀ s t : State, Sound s → step s = .next t → Sound t

/-- R90 ("Every command completes or raises"), R44, R215: from a sound state, over an image the host has filled up to
FILE_LEN, every step answers a next state, whatever the host's next transaction within the address space. -/
def Obligations.FilledImageNeverStops : Prop :=
  ∀ s : State, Sound s → ImgFilled s → (∀ tx, s.port.head? = some tx → txnLegal tx = true) →
    ∃ t, step s = .next t

/-- 00_scope.md R9 "unspecified", 93 U7 ("no theorem may depend on the value"), log 4: two states that differ only in
what the spec leaves unspecified take the same step, to states that again differ only there, and the host reads the
same from every specified register. -/
def Obligations.UnspecifiedValuesNeverMatter : Prop :=
  ∀ s s' : State, StatusSound s.status → SameView s s' →
    (∀ r, regSpecified s r = regSpecified s' r ∧ (regSpecified s r = true → regValue s r = regValue s' r)) ∧
    (∀ t, step s = .next t → ∃ t', step s' = .next t' ∧ SameView t t') ∧
    (∀ e, step s = .fault e → step s' = .fault e)

/-- R60, R98, R2: LDHDR, DECODE, RESOLVE from any state with no fault recorded, over a filled image of at least 16
bytes, end well, with INFO and SEG the functions of the image's header and FILE_LEN that the statements on DECODE and
LAYOUT describe. -/
def Obligations.AnalyzeEndsWell : Prop :=
  ∀ (s : State) (h : Header), s.status.err = false → 16 ≤ s.fileLen.toNat → ImgFilled s → HeaderAt s h →
    ∃ t, runCommands analyze s = .next t ∧ EndedWell t ∧ t.hdr = h ∧ t.info = decodeHeader h ∧
      t.seg = (segmentWalk (decodeHeader h) s.fileLen.toNat).seg ∧
      t.status.trunc = (segmentWalk (decodeHeader h) s.fileLen.toNat).trunc ∧
      (∀ a, t.img.read a = s.img.read a) ∧ t.fileLen = s.fileLen

/-- R26, R97, R52 ("pure functions of their inputs"): what ANALYZE leaves depends on the image and FILE_LEN alone, not on
any earlier analysis. -/
def Obligations.AnalyzeForgetsHistory : Prop :=
  ∀ s s' t : State, StatusSound s.status → StatusSound s'.status → s.status.err = false → s'.status.err = false →
    s.fileLen = s'.fileLen → s.img = s'.img → s.port = s'.port → s.config = s'.config →
    runCommands analyze s = .next t → t.status.err = false → ∃ t', runCommands analyze s' = .next t' ∧ SameView t t'
end

