-- ==== Sys2Proof/Laws/State.lean ====
section
/-! SUPPORT. One lemma per field per update of STATUS and of State, so that no proof unfolds a record update. -/

namespace Sys2Proof.Machine

/-! ### STATUS -/

@[simp] theorem Status.raised_hdrValid (st : Status) (f : BlockFault) : (st.raised f).hdrValid = st.hdrValid := rfl
@[simp] theorem Status.raised_infoValid (st : Status) (f : BlockFault) : (st.raised f).infoValid = st.infoValid := rfl
@[simp] theorem Status.raised_segValid (st : Status) (f : BlockFault) : (st.raised f).segValid = st.segValid := rfl
@[simp] theorem Status.raised_ftrDone (st : Status) (f : BlockFault) : (st.raised f).ftrDone = st.ftrDone := rfl
@[simp] theorem Status.raised_ftrPresent (st : Status) (f : BlockFault) :
    (st.raised f).ftrPresent = st.ftrPresent :=
  rfl
@[simp] theorem Status.raised_trunc (st : Status) (f : BlockFault) : (st.raised f).trunc = st.trunc := rfl
@[simp] theorem Status.raised_miscDeclAbsent (st : Status) (f : BlockFault) :
    (st.raised f).miscDeclAbsent = st.miscDeclAbsent :=
  rfl
@[simp] theorem Status.raised_err (st : Status) (f : BlockFault) : (st.raised f).err = true := rfl
@[simp] theorem Status.raised_errCode (st : Status) (f : BlockFault) : (st.raised f).errCode = faultCode f := rfl
@[simp] theorem Status.segCleared_hdrValid (st : Status) : (st.segCleared).hdrValid = st.hdrValid := rfl
@[simp] theorem Status.segCleared_infoValid (st : Status) : (st.segCleared).infoValid = st.infoValid := rfl
@[simp] theorem Status.segCleared_segValid (st : Status) : (st.segCleared).segValid = false := rfl
@[simp] theorem Status.segCleared_ftrDone (st : Status) : (st.segCleared).ftrDone = false := rfl
@[simp] theorem Status.segCleared_ftrPresent (st : Status) : (st.segCleared).ftrPresent = false := rfl
@[simp] theorem Status.segCleared_trunc (st : Status) : (st.segCleared).trunc = false := rfl
@[simp] theorem Status.segCleared_miscDeclAbsent (st : Status) : (st.segCleared).miscDeclAbsent = false := rfl
@[simp] theorem Status.segCleared_err (st : Status) : (st.segCleared).err = st.err := rfl
@[simp] theorem Status.segCleared_errCode (st : Status) : (st.segCleared).errCode = st.errCode := rfl
@[simp] theorem Status.afterLdhdr_hdrValid (st : Status) : (st.afterLdhdr).hdrValid = true := rfl
@[simp] theorem Status.afterLdhdr_infoValid (st : Status) : (st.afterLdhdr).infoValid = false := rfl
@[simp] theorem Status.afterLdhdr_segValid (st : Status) : (st.afterLdhdr).segValid = false := rfl
@[simp] theorem Status.afterLdhdr_ftrDone (st : Status) : (st.afterLdhdr).ftrDone = false := rfl
@[simp] theorem Status.afterLdhdr_ftrPresent (st : Status) : (st.afterLdhdr).ftrPresent = false := rfl
@[simp] theorem Status.afterLdhdr_trunc (st : Status) : (st.afterLdhdr).trunc = false := rfl
@[simp] theorem Status.afterLdhdr_miscDeclAbsent (st : Status) : (st.afterLdhdr).miscDeclAbsent = false := rfl
@[simp] theorem Status.afterLdhdr_err (st : Status) : (st.afterLdhdr).err = st.err := rfl
@[simp] theorem Status.afterLdhdr_errCode (st : Status) : (st.afterLdhdr).errCode = st.errCode := rfl
@[simp] theorem Status.afterDecode_hdrValid (st : Status) : (st.afterDecode).hdrValid = st.hdrValid := rfl
@[simp] theorem Status.afterDecode_infoValid (st : Status) : (st.afterDecode).infoValid = true := rfl
@[simp] theorem Status.afterDecode_segValid (st : Status) : (st.afterDecode).segValid = false := rfl
@[simp] theorem Status.afterDecode_ftrDone (st : Status) : (st.afterDecode).ftrDone = false := rfl
@[simp] theorem Status.afterDecode_ftrPresent (st : Status) : (st.afterDecode).ftrPresent = false := rfl
@[simp] theorem Status.afterDecode_trunc (st : Status) : (st.afterDecode).trunc = false := rfl
@[simp] theorem Status.afterDecode_miscDeclAbsent (st : Status) : (st.afterDecode).miscDeclAbsent = false := rfl
@[simp] theorem Status.afterDecode_err (st : Status) : (st.afterDecode).err = st.err := rfl
@[simp] theorem Status.afterDecode_errCode (st : Status) : (st.afterDecode).errCode = st.errCode := rfl
@[simp] theorem Status.afterLayout_hdrValid (st : Status) (t m : Bool) :
    (st.afterLayout t m).hdrValid = st.hdrValid :=
  rfl
@[simp] theorem Status.afterLayout_infoValid (st : Status) (t m : Bool) :
    (st.afterLayout t m).infoValid = st.infoValid :=
  rfl
@[simp] theorem Status.afterLayout_segValid (st : Status) (t m : Bool) : (st.afterLayout t m).segValid = true := rfl
@[simp] theorem Status.afterLayout_ftrDone (st : Status) (t m : Bool) : (st.afterLayout t m).ftrDone = false := rfl
@[simp] theorem Status.afterLayout_ftrPresent (st : Status) (t m : Bool) :
    (st.afterLayout t m).ftrPresent = false :=
  rfl
@[simp] theorem Status.afterLayout_trunc (st : Status) (t m : Bool) : (st.afterLayout t m).trunc = t := rfl
@[simp] theorem Status.afterLayout_miscDeclAbsent (st : Status) (t m : Bool) :
    (st.afterLayout t m).miscDeclAbsent = m :=
  rfl
@[simp] theorem Status.afterLayout_err (st : Status) (t m : Bool) : (st.afterLayout t m).err = st.err := rfl
@[simp] theorem Status.afterLayout_errCode (st : Status) (t m : Bool) :
    (st.afterLayout t m).errCode = st.errCode :=
  rfl
@[simp] theorem Status.afterFooter_hdrValid (st : Status) (p : Bool) :
    (st.afterFooter p).hdrValid = st.hdrValid :=
  rfl
@[simp] theorem Status.afterFooter_infoValid (st : Status) (p : Bool) :
    (st.afterFooter p).infoValid = st.infoValid :=
  rfl
@[simp] theorem Status.afterFooter_segValid (st : Status) (p : Bool) :
    (st.afterFooter p).segValid = st.segValid :=
  rfl
@[simp] theorem Status.afterFooter_ftrDone (st : Status) (p : Bool) : (st.afterFooter p).ftrDone = true := rfl
@[simp] theorem Status.afterFooter_ftrPresent (st : Status) (p : Bool) : (st.afterFooter p).ftrPresent = p := rfl
@[simp] theorem Status.afterFooter_trunc (st : Status) (p : Bool) : (st.afterFooter p).trunc = st.trunc := rfl
@[simp] theorem Status.afterFooter_miscDeclAbsent (st : Status) (p : Bool) :
    (st.afterFooter p).miscDeclAbsent = st.miscDeclAbsent :=
  rfl
@[simp] theorem Status.afterFooter_err (st : Status) (p : Bool) : (st.afterFooter p).err = st.err := rfl
@[simp] theorem Status.afterFooter_errCode (st : Status) (p : Bool) : (st.afterFooter p).errCode = st.errCode := rfl
@[simp] theorem Status.zero_hdrValid : Status.zero.hdrValid = false := rfl
@[simp] theorem Status.zero_infoValid : Status.zero.infoValid = false := rfl
@[simp] theorem Status.zero_segValid : Status.zero.segValid = false := rfl
@[simp] theorem Status.zero_ftrDone : Status.zero.ftrDone = false := rfl
@[simp] theorem Status.zero_ftrPresent : Status.zero.ftrPresent = false := rfl
@[simp] theorem Status.zero_trunc : Status.zero.trunc = false := rfl
@[simp] theorem Status.zero_miscDeclAbsent : Status.zero.miscDeclAbsent = false := rfl
@[simp] theorem Status.zero_err : Status.zero.err = false := rfl
@[simp] theorem Status.zero_errCode : Status.zero.errCode = 0 := rfl

/-! ### Taking a fault and returning from one -/

@[simp] theorem raise_fileLen (s : State) (f : BlockFault) : (raise f s).fileLen = s.fileLen := rfl
@[simp] theorem raise_status (s : State) (f : BlockFault) : (raise f s).status = s.status.raised f := rfl
@[simp] theorem raise_hdr (s : State) (f : BlockFault) : (raise f s).hdr = s.hdr := rfl
@[simp] theorem raise_info (s : State) (f : BlockFault) : (raise f s).info = s.info := rfl
@[simp] theorem raise_seg (s : State) (f : BlockFault) : (raise f s).seg = s.seg := rfl
@[simp] theorem raise_ftr (s : State) (f : BlockFault) : (raise f s).ftr = s.ftr := rfl
@[simp] theorem raise_img (s : State) (f : BlockFault) : (raise f s).img = s.img := rfl
@[simp] theorem raise_port (s : State) (f : BlockFault) : (raise f s).port = s.port := rfl
@[simp] theorem raise_rdata (s : State) (f : BlockFault) : (raise f s).rdata = s.rdata := rfl
@[simp] theorem raise_draw (s : State) (f : BlockFault) : (raise f s).draw = s.draw := rfl
@[simp] theorem raise_config (s : State) (f : BlockFault) : (raise f s).config = s.config := rfl
@[simp] theorem clearBlock_fileLen (s : State) : (clearBlock s).fileLen = 0 := rfl
@[simp] theorem clearBlock_status (s : State) : (clearBlock s).status = Status.zero := rfl
@[simp] theorem clearBlock_hdr (s : State) : (clearBlock s).hdr = freeHdr s.draw := rfl
@[simp] theorem clearBlock_info (s : State) : (clearBlock s).info = freeInfo s.draw := rfl
@[simp] theorem clearBlock_seg (s : State) : (clearBlock s).seg = freeSeg s.draw := rfl
@[simp] theorem clearBlock_ftr (s : State) : (clearBlock s).ftr = freeFtr s.draw := rfl
@[simp] theorem clearBlock_img (s : State) : (clearBlock s).img = s.img := rfl
@[simp] theorem clearBlock_port (s : State) : (clearBlock s).port = s.port := rfl
@[simp] theorem clearBlock_rdata (s : State) : (clearBlock s).rdata = s.rdata := rfl
@[simp] theorem clearBlock_draw (s : State) : (clearBlock s).draw = s.draw + 1 := rfl
@[simp] theorem clearBlock_config (s : State) : (clearBlock s).config = s.config := rfl

/-! ### The commands -/

@[simp] theorem latchHeader_fileLen (s : State) (h : Header) : (latchHeader s h).fileLen = s.fileLen := rfl
@[simp] theorem latchHeader_status (s : State) (h : Header) : (latchHeader s h).status = s.status.afterLdhdr := rfl
@[simp] theorem latchHeader_hdr (s : State) (h : Header) : (latchHeader s h).hdr = h := rfl
@[simp] theorem latchHeader_info (s : State) (h : Header) : (latchHeader s h).info = s.info := rfl
@[simp] theorem latchHeader_seg (s : State) (h : Header) : (latchHeader s h).seg = s.seg := rfl
@[simp] theorem latchHeader_ftr (s : State) (h : Header) : (latchHeader s h).ftr = s.ftr := rfl
@[simp] theorem latchHeader_img (s : State) (h : Header) : (latchHeader s h).img = s.img := rfl
@[simp] theorem latchHeader_port (s : State) (h : Header) : (latchHeader s h).port = s.port := rfl
@[simp] theorem latchHeader_rdata (s : State) (h : Header) : (latchHeader s h).rdata = s.rdata := rfl
@[simp] theorem latchHeader_draw (s : State) (h : Header) : (latchHeader s h).draw = s.draw := rfl
@[simp] theorem latchHeader_config (s : State) (h : Header) : (latchHeader s h).config = s.config := rfl
@[simp] theorem decodeInfo_fileLen (s : State) : (decodeInfo s).fileLen = s.fileLen := rfl
@[simp] theorem decodeInfo_status (s : State) : (decodeInfo s).status = s.status.afterDecode := rfl
@[simp] theorem decodeInfo_hdr (s : State) : (decodeInfo s).hdr = s.hdr := rfl
@[simp] theorem decodeInfo_info (s : State) : (decodeInfo s).info = decodeHeader s.hdr := rfl
@[simp] theorem decodeInfo_seg (s : State) : (decodeInfo s).seg = s.seg := rfl
@[simp] theorem decodeInfo_ftr (s : State) : (decodeInfo s).ftr = s.ftr := rfl
@[simp] theorem decodeInfo_img (s : State) : (decodeInfo s).img = s.img := rfl
@[simp] theorem decodeInfo_port (s : State) : (decodeInfo s).port = s.port := rfl
@[simp] theorem decodeInfo_rdata (s : State) : (decodeInfo s).rdata = s.rdata := rfl
@[simp] theorem decodeInfo_draw (s : State) : (decodeInfo s).draw = s.draw := rfl
@[simp] theorem decodeInfo_config (s : State) : (decodeInfo s).config = s.config := rfl
@[simp] theorem layoutSegments_fileLen (s : State) : (layoutSegments s).fileLen = s.fileLen := rfl
@[simp] theorem layoutSegments_status (s : State) :
    (layoutSegments s).status = s.status.afterLayout (segmentWalk s.info s.fileLen.toNat).trunc (segmentWalk s.info s.fileLen.toNat).miscDeclAbsent :=
  rfl
@[simp] theorem layoutSegments_hdr (s : State) : (layoutSegments s).hdr = s.hdr := rfl
@[simp] theorem layoutSegments_info (s : State) : (layoutSegments s).info = s.info := rfl
@[simp] theorem layoutSegments_seg (s : State) :
    (layoutSegments s).seg = (segmentWalk s.info s.fileLen.toNat).seg :=
  rfl
@[simp] theorem layoutSegments_ftr (s : State) : (layoutSegments s).ftr = s.ftr := rfl
@[simp] theorem layoutSegments_img (s : State) : (layoutSegments s).img = s.img := rfl
@[simp] theorem layoutSegments_port (s : State) : (layoutSegments s).port = s.port := rfl
@[simp] theorem layoutSegments_rdata (s : State) : (layoutSegments s).rdata = s.rdata := rfl
@[simp] theorem layoutSegments_draw (s : State) : (layoutSegments s).draw = s.draw := rfl
@[simp] theorem layoutSegments_config (s : State) : (layoutSegments s).config = s.config := rfl
@[simp] theorem noFooter_fileLen (s : State) : (noFooter s).fileLen = s.fileLen := rfl
@[simp] theorem noFooter_status (s : State) : (noFooter s).status = s.status.afterFooter false := rfl
@[simp] theorem noFooter_hdr (s : State) : (noFooter s).hdr = s.hdr := rfl
@[simp] theorem noFooter_info (s : State) : (noFooter s).info = s.info := rfl
@[simp] theorem noFooter_seg (s : State) : (noFooter s).seg = s.seg := rfl
@[simp] theorem noFooter_ftr (s : State) : (noFooter s).ftr = freeFtr s.draw := rfl
@[simp] theorem noFooter_img (s : State) : (noFooter s).img = s.img := rfl
@[simp] theorem noFooter_port (s : State) : (noFooter s).port = s.port := rfl
@[simp] theorem noFooter_rdata (s : State) : (noFooter s).rdata = s.rdata := rfl
@[simp] theorem noFooter_draw (s : State) : (noFooter s).draw = s.draw + 1 := rfl
@[simp] theorem noFooter_config (s : State) : (noFooter s).config = s.config := rfl
@[simp] theorem rejectFooter_fileLen (s : State) (cand : Nat) : (rejectFooter s cand).fileLen = s.fileLen := rfl
@[simp] theorem rejectFooter_status (s : State) (cand : Nat) :
    (rejectFooter s cand).status = s.status.afterFooter false :=
  rfl
@[simp] theorem rejectFooter_hdr (s : State) (cand : Nat) : (rejectFooter s cand).hdr = s.hdr := rfl
@[simp] theorem rejectFooter_info (s : State) (cand : Nat) : (rejectFooter s cand).info = s.info := rfl
@[simp] theorem rejectFooter_seg (s : State) (cand : Nat) : (rejectFooter s cand).seg = s.seg := rfl
@[simp] theorem rejectFooter_ftr (s : State) (cand : Nat) :
    (rejectFooter s cand).ftr = { freeFtr s.draw with offset := BitVec.ofNat 64 cand } :=
  rfl
@[simp] theorem rejectFooter_img (s : State) (cand : Nat) : (rejectFooter s cand).img = s.img := rfl
@[simp] theorem rejectFooter_port (s : State) (cand : Nat) : (rejectFooter s cand).port = s.port := rfl
@[simp] theorem rejectFooter_rdata (s : State) (cand : Nat) : (rejectFooter s cand).rdata = s.rdata := rfl
@[simp] theorem rejectFooter_draw (s : State) (cand : Nat) : (rejectFooter s cand).draw = s.draw + 1 := rfl
@[simp] theorem rejectFooter_config (s : State) (cand : Nat) : (rejectFooter s cand).config = s.config := rfl
@[simp] theorem acceptFooter_fileLen (s : State) (f : Ftr) : (acceptFooter s f).fileLen = s.fileLen := rfl
@[simp] theorem acceptFooter_status (s : State) (f : Ftr) :
    (acceptFooter s f).status = s.status.afterFooter true :=
  rfl
@[simp] theorem acceptFooter_hdr (s : State) (f : Ftr) : (acceptFooter s f).hdr = s.hdr := rfl
@[simp] theorem acceptFooter_info (s : State) (f : Ftr) : (acceptFooter s f).info = s.info := rfl
@[simp] theorem acceptFooter_seg (s : State) (f : Ftr) : (acceptFooter s f).seg = s.seg := rfl
@[simp] theorem acceptFooter_ftr (s : State) (f : Ftr) : (acceptFooter s f).ftr = f := rfl
@[simp] theorem acceptFooter_img (s : State) (f : Ftr) : (acceptFooter s f).img = s.img := rfl
@[simp] theorem acceptFooter_port (s : State) (f : Ftr) : (acceptFooter s f).port = s.port := rfl
@[simp] theorem acceptFooter_rdata (s : State) (f : Ftr) : (acceptFooter s f).rdata = s.rdata := rfl
@[simp] theorem acceptFooter_draw (s : State) (f : Ftr) : (acceptFooter s f).draw = s.draw := rfl
@[simp] theorem acceptFooter_config (s : State) (f : Ftr) : (acceptFooter s f).config = s.config := rfl

/-! ### The host -/

@[simp] theorem hostRead_fileLen (s : State) (no : BitVec 8) : (hostRead s no).fileLen = s.fileLen := rfl
@[simp] theorem hostRead_status (s : State) (no : BitVec 8) : (hostRead s no).status = s.status := rfl
@[simp] theorem hostRead_hdr (s : State) (no : BitVec 8) : (hostRead s no).hdr = s.hdr := rfl
@[simp] theorem hostRead_info (s : State) (no : BitVec 8) : (hostRead s no).info = s.info := rfl
@[simp] theorem hostRead_seg (s : State) (no : BitVec 8) : (hostRead s no).seg = s.seg := rfl
@[simp] theorem hostRead_ftr (s : State) (no : BitVec 8) : (hostRead s no).ftr = s.ftr := rfl
@[simp] theorem hostRead_img (s : State) (no : BitVec 8) : (hostRead s no).img = s.img := rfl
@[simp] theorem hostRead_port (s : State) (no : BitVec 8) : (hostRead s no).port = s.port := rfl
@[simp] theorem hostRead_rdata (s : State) (no : BitVec 8) : (hostRead s no).rdata = readRegData s no := rfl
@[simp] theorem hostRead_draw (s : State) (no : BitVec 8) : (hostRead s no).draw = s.draw + 1 := rfl
@[simp] theorem hostRead_config (s : State) (no : BitVec 8) : (hostRead s no).config = s.config := rfl
@[simp] theorem writeFileLen_fileLen (s : State) (v : Addr) : (writeFileLen s v).fileLen = v := rfl
@[simp] theorem writeFileLen_status (s : State) (v : Addr) : (writeFileLen s v).status = s.status.segCleared := rfl
@[simp] theorem writeFileLen_hdr (s : State) (v : Addr) : (writeFileLen s v).hdr = s.hdr := rfl
@[simp] theorem writeFileLen_info (s : State) (v : Addr) : (writeFileLen s v).info = s.info := rfl
@[simp] theorem writeFileLen_seg (s : State) (v : Addr) : (writeFileLen s v).seg = s.seg := rfl
@[simp] theorem writeFileLen_ftr (s : State) (v : Addr) : (writeFileLen s v).ftr = s.ftr := rfl
@[simp] theorem writeFileLen_img (s : State) (v : Addr) : (writeFileLen s v).img = s.img := rfl
@[simp] theorem writeFileLen_port (s : State) (v : Addr) : (writeFileLen s v).port = s.port := rfl
@[simp] theorem writeFileLen_rdata (s : State) (v : Addr) : (writeFileLen s v).rdata = s.rdata := rfl
@[simp] theorem writeFileLen_draw (s : State) (v : Addr) : (writeFileLen s v).draw = s.draw := rfl
@[simp] theorem writeFileLen_config (s : State) (v : Addr) : (writeFileLen s v).config = s.config := rfl

end Sys2Proof.Machine
end

