-- ==== Sys2Proof/Laws/Memory.lean ====
section
/-! SUPPORT. IMG: what a read sees after a write, that every operation keeps the canonical form, and what a MemRead
answers. -/

namespace Sys2Proof.Machine

@[simp] theorem Memory.read_nil (a : Nat) : Memory.read [] a = none := rfl

theorem Memory.read_write_same (m : Memory) (a : Nat) (b : Byte) : (Memory.write m a b).read a = some b := by
  induction m with
  | nil => simp [Memory.write, Memory.read]
  | cons c rest ih =>
    obtain ⟨k, v⟩ := c
    simp only [Memory.write]
    split
    · simp [Memory.read]
    · split
      · simp [Memory.read]
      · rename_i h
        simp [Memory.read, Ne.symm h, ih]

theorem Memory.read_write_other (m : Memory) (a x : Nat) (b : Byte) (h : x ≠ a) :
    (Memory.write m a b).read x = m.read x := by
  induction m with
  | nil => simp [Memory.write, Memory.read, Ne.symm h]
  | cons c rest ih =>
    obtain ⟨k, v⟩ := c
    simp only [Memory.write]
    split
    · simp [Memory.read, Ne.symm h]
    · split
      · rename_i hak
        simp [Memory.read, ← hak, Ne.symm h]
      · simp [Memory.read, ih]

/-- A byte outside the placed range reads as before. -/
theorem Memory.read_place_outside (m : Memory) (a x : Nat) (bytes : List Byte)
    (h : x < a ∨ a + bytes.length ≤ x) : (Memory.place m a bytes).read x = m.read x := by
  induction bytes generalizing m a with
  | nil => rfl
  | cons b rest ih =>
    simp only [List.length_cons] at h
    simp only [Memory.place]
    rw [ih _ _ (by omega), Memory.read_write_other _ _ _ _ (by omega)]

/-- A byte inside the placed range reads as placed. -/
theorem Memory.read_place_inside (m : Memory) (a k : Nat) (bytes : List Byte) (h : k < bytes.length) :
    (Memory.place m a bytes).read (a + k) = some bytes[k] := by
  induction bytes generalizing m a k with
  | nil => simp at h
  | cons b rest ih =>
    simp only [Memory.place]
    cases k with
    | zero => rw [Memory.read_place_outside _ _ _ _ (by omega)]; simp [Memory.read_write_same]
    | succ k =>
      rw [show a + (k + 1) = a + 1 + k by omega, ih _ _ _ (by simpa using h)]
      simp

theorem Memory.risingFrom_write (m : Memory) (lo a : Nat) (b : Byte) (ha : lo ≤ a)
    (h : Memory.risingFrom lo m = true) : Memory.risingFrom lo (Memory.write m a b) = true := by
  induction m generalizing lo with
  | nil => simp [Memory.write, Memory.risingFrom, ha]
  | cons c rest ih =>
    obtain ⟨k, v⟩ := c
    simp only [Memory.risingFrom, Bool.and_eq_true, decide_eq_true_eq] at h
    simp only [Memory.write]
    split
    · rename_i hak
      simp [Memory.risingFrom, ha, h.2, Nat.succ_le_of_lt hak]
    · split
      · rename_i hak
        simp [Memory.risingFrom, hak, h.1, h.2]
      · simp [Memory.risingFrom, h.1, ih (k + 1) (by omega) h.2]

theorem Memory.all_write (p : Host.Cell → Bool) (m : Memory) (a : Nat) (b : Byte) (ha : p (a, b) = true)
    (h : m.all p = true) : (Memory.write m a b).all p = true := by
  induction m with
  | nil => simp [Memory.write, ha]
  | cons c rest ih =>
    obtain ⟨k, v⟩ := c
    simp only [List.all_cons, Bool.and_eq_true] at h
    simp only [Memory.write]
    split
    · simp only [List.all_cons, ha, h.1, h.2, Bool.and_self]
    · split
      · simp only [List.all_cons, ha, h.2, Bool.and_self]
      · simp only [List.all_cons, h.1, ih h.2, Bool.and_self]

/-- A write of a 64-bit address keeps the canonical form. -/
theorem Memory.wf_write (m : Memory) (a : Nat) (b : Byte) (ha : a < 2 ^ 64) (h : m.wf = true) :
    (Memory.write m a b).wf = true := by
  simp only [Memory.wf, Bool.and_eq_true] at h ⊢
  exact ⟨Memory.risingFrom_write m 0 a b (Nat.zero_le a) h.1, Memory.all_write _ m a b (by simpa using ha) h.2⟩

/-- Placing bytes that end at or below 2^64 keeps the canonical form. -/
theorem Memory.wf_place (m : Memory) (a : Nat) (bytes : List Byte) (ha : a + bytes.length ≤ 2 ^ 64)
    (h : m.wf = true) : (Memory.place m a bytes).wf = true := by
  induction bytes generalizing m a with
  | nil => exact h
  | cons b rest ih =>
    simp only [List.length_cons] at ha
    exact ih _ _ (by omega) (Memory.wf_write m a b (by omega) h)

/-- A canonical list that rises from `lo` lists nothing below it. -/
theorem Memory.read_below {m : Memory} {lo a : Nat} (h : Memory.risingFrom lo m = true) (ha : a < lo) :
    m.read a = none := by
  induction m generalizing lo with
  | nil => rfl
  | cons c rest ih =>
    obtain ⟨k, v⟩ := c
    simp only [Memory.risingFrom, Bool.and_eq_true, decide_eq_true_eq] at h
    rw [Memory.read, if_neg (by omega), ih h.2 (by omega)]

/-- A filled list has a byte at every address of the range. -/
theorem Memory.read_of_filledFrom {m : Memory} {lo n a : Nat} (h : Memory.filledFrom lo n m = true) (hlo : lo ≤ a)
    (ha : a < n) : (m.read a).isSome = true := by
  induction m generalizing lo with
  | nil => simp only [Memory.filledFrom, decide_eq_true_eq] at h; omega
  | cons c rest ih =>
    obtain ⟨k, v⟩ := c
    simp only [Memory.filledFrom, Bool.or_eq_true, Bool.and_eq_true, decide_eq_true_eq, beq_iff_eq] at h
    rcases h with h | ⟨rfl, h⟩
    · omega
    · simp only [Memory.read]
      split
      · rfl
      · exact ih h (by omega)

/-- A canonical list with a byte at every address of the range is filled. -/
theorem Memory.filledFrom_of_read {m : Memory} {lo n : Nat} (hr : Memory.risingFrom lo m = true)
    (h : ∀ a, lo ≤ a → a < n → (m.read a).isSome = true) : Memory.filledFrom lo n m = true := by
  induction m generalizing lo with
  | nil =>
    simp only [Memory.filledFrom, decide_eq_true_eq]
    exact Nat.not_lt.1 fun hlt => by simpa using h lo (Nat.le_refl _) hlt
  | cons c rest ih =>
    obtain ⟨k, v⟩ := c
    simp only [Memory.risingFrom, Bool.and_eq_true, decide_eq_true_eq] at hr
    simp only [Memory.filledFrom, Bool.or_eq_true, Bool.and_eq_true, decide_eq_true_eq, beq_iff_eq]
    by_cases hn : n ≤ lo
    · exact .inl hn
    · have hk : k = lo := by
        by_contra hne
        have := h lo (Nat.le_refl _) (by omega)
        rw [Memory.read, if_neg hne, Memory.read_below hr.2 (by omega)] at this
        cases this
      subst hk
      refine .inr ⟨rfl, ih hr.2 fun a ha hlt => ?_⟩
      have := h a (by omega) hlt
      rwa [Memory.read, if_neg (by omega)] at this

/-- Placing bytes takes no byte away. -/
theorem Memory.isSome_place (m : Memory) (a x : Nat) (bytes : List Byte) (h : (m.read x).isSome = true) :
    ((m.place a bytes).read x).isSome = true := by
  by_cases hx : x < a ∨ a + bytes.length ≤ x
  · rwa [Memory.read_place_outside _ _ _ _ hx]
  · obtain ⟨k, rfl⟩ : ∃ k, x = a + k := ⟨x - a, by omega⟩
    rw [Memory.read_place_inside _ _ _ _ (by omega)]
    rfl

/-- What a filled image is (70_reset R215). -/
theorem imgFilled_read {s : State} (h : imgFilled s = true) {a : Nat} (ha : a < s.fileLen.toNat) :
    (s.img.read a).isSome = true := Memory.read_of_filledFrom h (Nat.zero_le _) ha

theorem imgFilled_of_read {s : State} (hw : s.img.wf = true)
    (h : ∀ a, a < s.fileLen.toNat → (s.img.read a).isSome = true) : imgFilled s = true := by
  simp only [Memory.wf, Bool.and_eq_true] at hw
  exact Memory.filledFrom_of_read hw.1 fun a _ ha => h a ha

/-- One missing byte below FILE_LEN, and the image is not filled. -/
theorem imgFilled_of_hole {s : State} {a : Nat} (ha : a < s.fileLen.toNat) (h : s.img.read a = none) :
    imgFilled s = false := by
  rw [← Bool.not_eq_true]
  exact fun hf => by simpa [h] using imgFilled_read hf ha

/-- Being filled is a matter of FILE_LEN and IMG alone. -/
theorem imgFilled_congr {s t : State} (hf : s.fileLen = t.fileLen) (hi : s.img = t.img) :
    imgFilled s = imgFilled t := by
  simp only [imgFilled, hf, hi]

theorem reset_img_wf : State.reset.img.wf = true := rfl

/-- A MemRead that answers read only defined, filled addresses and returns their bytes (20_memory.md R42). -/
theorem memRead_ok {s : State} {addr n : Nat} {v : Vector Byte n} (h : memRead s addr n = .ok v) :
    addr + n ≤ s.fileLen.toNat ∧ ∀ k (hk : k < n), s.img.read (addr + k) = some v[k] := by
  simp only [memRead] at h
  split at h
  · cases h
  · rename_i hlen
    split at h
    · rename_i hall
      cases h
      refine ⟨by omega, fun k hk => ?_⟩
      have hs := List.all_eq_true.1 hall k (List.mem_range.2 hk)
      obtain ⟨b, hb⟩ := Option.isSome_iff_exists.1 hs
      simp [hb]
    · cases h

/-- A MemRead of defined, filled addresses answers, with the bytes the host placed. -/
theorem memRead_of_read {s : State} {addr n : Nat} {v : Vector Byte n} (hlen : addr + n ≤ s.fileLen.toNat)
    (h : ∀ k (hk : k < n), s.img.read (addr + k) = some v[k]) : memRead s addr n = .ok v := by
  have hall : ((List.range n).all fun k => (s.img.read (addr + k)).isSome) = true := by
    refine List.all_eq_true.2 fun k hk => ?_
    simp [h k (List.mem_range.1 hk)]
  simp only [memRead, if_neg (Nat.not_lt.2 hlen), hall, if_true]
  congr 1
  ext k hk
  simp [h k hk]

/-- A MemRead of defined, filled addresses answers. -/
theorem memRead_of_filled {s : State} {addr n : Nat} (hlen : addr + n ≤ s.fileLen.toNat)
    (h : ∀ k, k < n → (s.img.read (addr + k)).isSome = true) : ∃ v, memRead s addr n = .ok v := by
  have hall : ((List.range n).all fun k => (s.img.read (addr + k)).isSome) = true :=
    List.all_eq_true.2 fun k hk => h k (List.mem_range.1 hk)
  exact ⟨_, by simp only [memRead, if_neg (Nat.not_lt.2 hlen), hall, if_true]; rfl⟩

/-- A MemRead that faults reads past FILE_LEN, or an address the host never filled. -/
theorem memRead_error {s : State} {addr n : Nat} {e : Fault} (h : memRead s addr n = .error e) :
    (e = .imgBeyondFileLen ∧ s.fileLen.toNat < addr + n) ∨
      (e = .imgNotPlaced ∧ addr + n ≤ s.fileLen.toNat ∧ ∃ k, k < n ∧ s.img.read (addr + k) = none) := by
  simp only [memRead] at h
  split at h
  · cases h; exact .inl ⟨rfl, ‹_›⟩
  · split at h
    · cases h
    · rename_i hlen hall
      cases h
      refine .inr ⟨rfl, by omega, ?_⟩
      simpa using hall

/-- A MemRead looks at FILE_LEN and IMG alone. -/
theorem memRead_congr {s t : State} (addr n : Nat) (hf : s.fileLen = t.fileLen) (hi : s.img = t.img) :
    memRead s addr n = memRead t addr n := by
  simp only [memRead, hf, hi]

end Sys2Proof.Machine
end

