-- ==== Sys2Proof/Laws/Ops.lean ====
section
/-! SUPPORT. What each check and each command can answer: one inversion lemma per shared operation and per command
("if it answers next t, then ..."), and where each completes. The proofs cite these and unfold no meaning. -/

namespace Sys2Proof.Machine

theorem headerLen_eq : headerLen = 16 := rfl

/-! ### The checks -/

theorem unlessErr_of_err {s : State} (h : s.status.err = true) (r : Result) : unlessErr s r = .next s := by
  simp [unlessErr, h]

theorem unlessErr_of_clear {s : State} (h : s.status.err = false) (r : Result) : unlessErr s r = r := by
  simp [unlessErr, h]

theorem needStage_valid (s : State) (r : Result) : needStage s true r = r := rfl

theorem needStage_of_valid {s : State} {v : Bool} (h : v = true) (r : Result) : needStage s v r = r := by
  simp [needStage, h]

theorem needStage_of_invalid {s : State} {v : Bool} (h : v = false) (r : Result) :
    needStage s v r = .next (raise .sequence s) := by
  simp [needStage, h]

theorem needImage_of_long {s : State} (h : 16 ≤ s.fileLen.toNat) (r : Result) : needImage s r = r := by
  simp [needImage, headerLen_eq, Nat.not_lt.2 h]

theorem needImage_of_short {s : State} (h : s.fileLen.toNat < 16) (r : Result) :
    needImage s r = .next (raise .shortImage s) := by
  simp [needImage, headerLen_eq, h]

theorem needFilled_of_filled {s : State} (h : imgFilled s = true) (r : Result) : needFilled s r = r := by
  simp [needFilled, h]

theorem needFilled_of_unfilled {s : State} (h : imgFilled s = false) (r : Result) :
    needFilled s r = .fault .imgNotPlaced := by
  simp [needFilled, h]

/-- The check passes on what it guards only over a filled image. -/
theorem needFilled_next {s t : State} {r : Result} (h : needFilled s r = .next t) : imgFilled s = true ∧ r = .next t := by
  cases hf : imgFilled s
  · rw [needFilled_of_unfilled hf] at h; cases h
  · rw [needFilled_of_filled hf] at h; exact ⟨rfl, h⟩

/-! ### The footer search -/

/-- Everything FOOTER's body can answer as a next state (43_footer.md R160). -/
theorem findFooter_next {s t : State} (h : findFooter s = .next t) :
    (footerSearched s = false ∧ t = noFooter s) ∨
      (footerSearched s = true ∧ ∃ F, memRead s (footerCandidate s) footerLen = .ok F ∧
        ((parseFooter s.config.ftrLayout (footerCandidate s) F = none ∧ t = rejectFooter s (footerCandidate s)) ∨
          ∃ f, parseFooter s.config.ftrLayout (footerCandidate s) F = some f ∧ t = acceptFooter s f)) := by
  simp only [findFooter] at h
  cases hs : footerSearched s
  · simp only [hs, Bool.false_eq_true, if_false, Host.Outcome.next.injEq] at h
    exact .inl ⟨rfl, h.symm⟩
  · refine .inr ⟨rfl, ?_⟩
    simp only [hs, if_true] at h
    cases hm : memRead s (footerCandidate s) footerLen with
    | error e => rw [hm] at h; cases h
    | ok F =>
      rw [hm] at h
      refine ⟨F, rfl, ?_⟩
      cases hp : parseFooter s.config.ftrLayout (footerCandidate s) F with
      | none => simp only [hp] at h; cases h; exact .inl ⟨rfl, rfl⟩
      | some f => simp only [hp] at h; cases h; exact .inr ⟨f, rfl, rfl⟩

/-- FOOTER's body stops only in its fetch (43_footer.md R163). -/
theorem findFooter_fault {s : State} {e : Fault} (h : findFooter s = .fault e) :
    footerSearched s = true ∧ memRead s (footerCandidate s) footerLen = .error e := by
  simp only [findFooter] at h
  cases hs : footerSearched s
  · simp [hs] at h
  · simp only [hs, if_true] at h
    cases hm : memRead s (footerCandidate s) footerLen with
    | error e' => rw [hm] at h; cases h; exact ⟨rfl, rfl⟩
    | ok F => rw [hm] at h; simp only at h; split at h <;> cases h

/-- FOOTER's body never refuses. -/
theorem findFooter_ne_refused (s : State) (r : Refusal) : findFooter s ≠ .refused r := by
  simp only [findFooter]
  split
  · split
    · split <;> simp
    · simp
  · simp

/-! ### The commands: what a next state is -/

/-- NOP (40_control.md R91). -/
theorem exec_nop (s : State) : exec .nop s = .next s := by
  simp [exec, execNop, unlessErr]

/-- CLR (40_control.md R92). -/
theorem exec_clr (s : State) : exec .clr s = .next (clearBlock s) := rfl

/-- LDHDR's next states (40_control.md R90, R93). -/
theorem exec_ldhdr_next {s t : State} (h : exec .ldhdr s = .next t) :
    (s.status.err = true ∧ t = s) ∨
      (s.status.err = false ∧ s.fileLen.toNat < 16 ∧ t = raise .shortImage s) ∨
      (s.status.err = false ∧ 16 ≤ s.fileLen.toNat ∧ imgFilled s = true ∧ ∃ v, memRead s 0 16 = .ok v ∧ t = latchHeader s v) := by
  simp only [exec, execLdhdr] at h
  cases he : s.status.err
  · rw [unlessErr_of_clear he] at h
    by_cases hl : s.fileLen.toNat < 16
    · rw [needImage_of_short hl] at h; cases h; exact .inr (.inl ⟨rfl, hl, rfl⟩)
    · rw [needImage_of_long (by omega)] at h
      obtain ⟨hf, h⟩ := needFilled_next h
      cases hm : memRead s 0 16 with
      | error e => rw [hm] at h; cases h
      | ok v => rw [hm] at h; cases h; exact .inr (.inr ⟨rfl, by omega, hf, v, rfl, rfl⟩)
  · rw [unlessErr_of_err he] at h; cases h; exact .inl ⟨rfl, rfl⟩

/-- DECODE's next states (41_decode.md R100). -/
theorem exec_decode_next {s t : State} (h : exec .decode s = .next t) :
    (s.status.err = true ∧ t = s) ∨
      (s.status.err = false ∧ s.status.hdrValid = false ∧ t = raise .sequence s) ∨
      (s.status.err = false ∧ s.status.hdrValid = true ∧ t = decodeInfo s) := by
  simp only [exec, execDecode] at h
  cases he : s.status.err
  · rw [unlessErr_of_clear he] at h
    cases hv : s.status.hdrValid
    · rw [hv, needStage_of_invalid rfl] at h; cases h; exact .inr (.inl ⟨rfl, rfl, rfl⟩)
    · rw [hv, needStage_of_valid rfl] at h; cases h; exact .inr (.inr ⟨rfl, rfl, rfl⟩)
  · rw [unlessErr_of_err he] at h; cases h; exact .inl ⟨rfl, rfl⟩

/-- LAYOUT's next states (42_layout.md R140). -/
theorem exec_layout_next {s t : State} (h : exec .layout s = .next t) :
    (s.status.err = true ∧ t = s) ∨
      (s.status.err = false ∧ s.status.infoValid = false ∧ t = raise .sequence s) ∨
      (s.status.err = false ∧ s.status.infoValid = true ∧ s.fileLen.toNat < 16 ∧ t = raise .shortImage s) ∨
      (s.status.err = false ∧ s.status.infoValid = true ∧ 16 ≤ s.fileLen.toNat ∧ imgFilled s = true ∧
        t = layoutSegments s) := by
  simp only [exec, execLayout] at h
  cases he : s.status.err
  · rw [unlessErr_of_clear he] at h
    cases hv : s.status.infoValid
    · rw [hv, needStage_of_invalid rfl] at h; cases h; exact .inr (.inl ⟨rfl, rfl, rfl⟩)
    · rw [hv, needStage_of_valid rfl] at h
      by_cases hl : s.fileLen.toNat < 16
      · rw [needImage_of_short hl] at h; cases h; exact .inr (.inr (.inl ⟨rfl, rfl, hl, rfl⟩))
      · rw [needImage_of_long (by omega)] at h
        obtain ⟨hf, h⟩ := needFilled_next h
        cases h
        exact .inr (.inr (.inr ⟨rfl, rfl, by omega, hf, rfl⟩))
  · rw [unlessErr_of_err he] at h; cases h; exact .inl ⟨rfl, rfl⟩

/-- FOOTER's next states (43_footer.md R160); `findFooter_next` says the rest. -/
theorem exec_footer_next {s t : State} (h : exec .footer s = .next t) :
    (s.status.err = true ∧ t = s) ∨
      (s.status.err = false ∧ s.status.segValid = false ∧ t = raise .sequence s) ∨
      (s.status.err = false ∧ s.status.segValid = true ∧ findFooter s = .next t) := by
  simp only [exec, execFooter] at h
  cases he : s.status.err
  · rw [unlessErr_of_clear he] at h
    cases hv : s.status.segValid
    · rw [hv, needStage_of_invalid rfl] at h; cases h; exact .inr (.inl ⟨rfl, rfl, rfl⟩)
    · rw [hv, needStage_of_valid rfl] at h; exact .inr (.inr ⟨rfl, rfl, h⟩)
  · rw [unlessErr_of_err he] at h; cases h; exact .inl ⟨rfl, rfl⟩

/-- RESOLVE's next states (43_footer.md R180); `findFooter_next` says the rest. -/
theorem exec_resolve_next {s t : State} (h : exec .resolve s = .next t) :
    (s.status.err = true ∧ t = s) ∨
      (s.status.err = false ∧ s.status.infoValid = false ∧ t = raise .sequence s) ∨
      (s.status.err = false ∧ s.status.infoValid = true ∧ s.fileLen.toNat < 16 ∧ t = raise .shortImage s) ∨
      (s.status.err = false ∧ s.status.infoValid = true ∧ 16 ≤ s.fileLen.toNat ∧ imgFilled s = true ∧
        findFooter (layoutSegments s) = .next t) := by
  simp only [exec, execResolve] at h
  cases he : s.status.err
  · rw [unlessErr_of_clear he] at h
    cases hv : s.status.infoValid
    · rw [hv, needStage_of_invalid rfl] at h; cases h; exact .inr (.inl ⟨rfl, rfl, rfl⟩)
    · rw [hv, needStage_of_valid rfl] at h
      by_cases hl : s.fileLen.toNat < 16
      · rw [needImage_of_short hl] at h; cases h; exact .inr (.inr (.inl ⟨rfl, rfl, hl, rfl⟩))
      · rw [needImage_of_long (by omega)] at h
        obtain ⟨hf, h⟩ := needFilled_next h
        exact .inr (.inr (.inr ⟨rfl, rfl, by omega, hf, h⟩))
  · rw [unlessErr_of_err he] at h; cases h; exact .inl ⟨rfl, rfl⟩

/-! ### The commands: where each runs its body -/

theorem exec_ldhdr_run {s : State} (he : s.status.err = false) (hl : 16 ≤ s.fileLen.toNat)
    (hf : imgFilled s = true) {v : Header} (hm : memRead s 0 16 = .ok v) : exec .ldhdr s = .next (latchHeader s v) := by
  simp only [exec, execLdhdr, unlessErr_of_clear he, needImage_of_long hl, needFilled_of_filled hf, hm]

theorem exec_decode_run {s : State} (he : s.status.err = false) (hv : s.status.hdrValid = true) :
    exec .decode s = .next (decodeInfo s) := by
  simp only [exec, execDecode, unlessErr_of_clear he, needStage_of_valid hv]

theorem exec_layout_run {s : State} (he : s.status.err = false) (hv : s.status.infoValid = true)
    (hl : 16 ≤ s.fileLen.toNat) (hf : imgFilled s = true) : exec .layout s = .next (layoutSegments s) := by
  simp only [exec, execLayout, unlessErr_of_clear he, needStage_of_valid hv, needImage_of_long hl,
    needFilled_of_filled hf]

theorem exec_footer_run {s : State} (he : s.status.err = false) (hv : s.status.segValid = true) :
    exec .footer s = findFooter s := by
  simp only [exec, execFooter, unlessErr_of_clear he, needStage_of_valid hv]

theorem exec_resolve_run {s : State} (he : s.status.err = false) (hv : s.status.infoValid = true)
    (hl : 16 ≤ s.fileLen.toNat) (hf : imgFilled s = true) : exec .resolve s = findFooter (layoutSegments s) := by
  simp only [exec, execResolve, unlessErr_of_clear he, needStage_of_valid hv, needImage_of_long hl,
    needFilled_of_filled hf]

theorem findFooter_not_searched {s : State} (hs : footerSearched s = false) : findFooter s = .next (noFooter s) := by
  simp [findFooter, hs]

theorem findFooter_rejected {s : State} {F : FooterBytes} (hs : footerSearched s = true)
    (hm : memRead s (footerCandidate s) footerLen = .ok F)
    (hp : parseFooter s.config.ftrLayout (footerCandidate s) F = none) :
    findFooter s = .next (rejectFooter s (footerCandidate s)) := by
  simp only [findFooter, hs, if_true, hm, hp]

theorem findFooter_accepted {s : State} {F : FooterBytes} {f : Ftr} (hs : footerSearched s = true)
    (hm : memRead s (footerCandidate s) footerLen = .ok F)
    (hp : parseFooter s.config.ftrLayout (footerCandidate s) F = some f) :
    findFooter s = .next (acceptFooter s f) := by
  simp only [findFooter, hs, if_true, hm, hp]

/-! ### Reserved words -/

theorem execIllegal_next (s : State) :
    execIllegal s = .next (if s.status.err then s else raise .illegalCommand s) := by
  simp only [execIllegal, unlessErr]; split <;> rfl

end Sys2Proof.Machine
end

