-- ==== Sys2Proof/Laws/Units.lean ====
section
/-! SUPPORT. The three units: the sizes DEC computes fit their registers (41_decode.md R106), what one step of LAY's
walk does (42_layout.md R142, R150), what FTR's parse answers (43_footer.md R166 to R177). -/

namespace Sys2Proof.Machine

/-! ### DEC -/

/-- Every nonzero result fits 64 bits: the largest is 2^61 * 7 (41_decode.md R104). -/
theorem expmul_le (x : Byte) : expmul x ≤ 2 ^ 61 * 7 := by
  have he := (sizeExponent x).isLt
  have hm := (sizeMultiplier x).isLt
  by_cases h : (sizeExponent x).toNat > expMax
  · simp only [expmul, if_pos h]; exact Nat.zero_le _
  · simp only [expmul, if_neg h]
    simp only [expMax] at h
    exact Nat.mul_le_mul (Nat.pow_le_pow_right (by decide) (by omega)) (by omega)

/-- No ROM size wraps its 64-bit register (41_decode.md R106). -/
theorem romSize_lt (ext : Bool) (high : BitVec 4) (low : Byte) (unit : Nat) (hu : unit ≤ prgUnit) :
    romSize ext high low unit < 2 ^ 64 := by
  have hh := high.isLt
  have hl := low.isLt
  have hx := expmul_le low
  simp only [romSize, prgUnit] at *
  split
  · have := Nat.mul_le_mul (Nat.le_of_lt hl) hu; omega
  · split
    · omega
    · have := Nat.mul_le_mul (show high.toNat * 256 + low.toNat ≤ 4096 by omega) hu; omega

/-- No RAM size wraps its 32-bit register (41_decode.md R105). -/
theorem ramSize_lt (s : BitVec 4) : ramSize s < 2 ^ 32 := by
  have h : ∀ s : BitVec 4, ramSize s < 2 ^ 32 := by decide
  exact h s

theorem prgSizeOf_toNat (h : Header) :
    (prgSizeOf h).toNat = romSize (hdrExtended h) (hdrPrgHigh h) (hdrPrgLow h) prgUnit := by
  simp only [prgSizeOf, BitVec.toNat_ofNat]
  exact Nat.mod_eq_of_lt (romSize_lt _ _ _ _ (Nat.le_refl _))

theorem chrSizeOf_toNat (h : Header) :
    (chrSizeOf h).toNat = romSize (hdrExtended h) (hdrChrHigh h) (hdrChrLow h) chrUnit := by
  simp only [chrSizeOf, BitVec.toNat_ofNat]
  exact Nat.mod_eq_of_lt (romSize_lt _ _ _ _ (by decide))

@[simp] theorem onlyIf_true {w : Nat} (v : BitVec w) : onlyIf true v = v := rfl
@[simp] theorem onlyIf_false {w : Nat} (v : BitVec w) : onlyIf false v = 0 := rfl

/-- The clamped code is at most the sentinel (41_decode.md R122). -/
theorem clampExpdev_le (v : Byte) : (clampExpdev v).toNat ≤ Config.expdevKnownMax.val + 1 := by
  have hk := Config.expdevKnownMax.isLt
  simp only [clampExpdev]
  split
  · omega
  · simp only [BitVec.toNat_ofNat]; omega

/-! The registers of a decoded header, one by one (41_decode.md R100). -/

@[simp] theorem decodeHeader_mapper (h : Header) : (decodeHeader h).mapper = mapperOf h := rfl
@[simp] theorem decodeHeader_submapper (h : Header) :
    (decodeHeader h).submapper = onlyIf (hdrExtended h) ((hdrSubmapper h).setWidth 8) := rfl
@[simp] theorem decodeHeader_isExtended (h : Header) : (decodeHeader h).isExtended = hdrExtended h := rfl
@[simp] theorem decodeHeader_isPalLegacy (h : Header) :
    (decodeHeader h).isPalLegacy = (!hdrExtended h && hdrPal h) := rfl
@[simp] theorem decodeHeader_prgSize (h : Header) : (decodeHeader h).prgSize = prgSizeOf h := rfl
@[simp] theorem decodeHeader_chrSize (h : Header) : (decodeHeader h).chrSize = chrSizeOf h := rfl
@[simp] theorem decodeHeader_prgRamSize (h : Header) :
    (decodeHeader h).prgRamSize = onlyIf (hdrExtended h) (BitVec.ofNat 32 (ramSize (hdrPrgRamShift h))) := rfl
@[simp] theorem decodeHeader_chrRamSize (h : Header) :
    (decodeHeader h).chrRamSize = onlyIf (hdrExtended h) (BitVec.ofNat 32 (ramSize (hdrChrRamShift h))) := rfl
@[simp] theorem decodeHeader_prgSaveRamSize (h : Header) :
    (decodeHeader h).prgSaveRamSize = onlyIf (hdrExtended h && hdrBattery h) (BitVec.ofNat 32 (ramSize (hdrPrgSaveShift h))) :=
  rfl
@[simp] theorem decodeHeader_chrSaveRamSize (h : Header) :
    (decodeHeader h).chrSaveRamSize = onlyIf (hdrExtended h && hdrBattery h) (BitVec.ofNat 32 (ramSize (hdrChrSaveShift h))) :=
  rfl
@[simp] theorem decodeHeader_mirroring (h : Header) : (decodeHeader h).mirroring = hdrMirroring h := rfl
@[simp] theorem decodeHeader_hasFourScreenVram (h : Header) :
    (decodeHeader h).hasFourScreenVram = hdrFourScreen h := rfl
@[simp] theorem decodeHeader_hasBattery (h : Header) : (decodeHeader h).hasBattery = hdrBattery h := rfl
@[simp] theorem decodeHeader_hasTrainer (h : Header) : (decodeHeader h).hasTrainer = hdrTrainer h := rfl
@[simp] theorem decodeHeader_frameTiming (h : Header) :
    (decodeHeader h).frameTiming = onlyIf (hdrExtended h) (hdrFrameTiming h) := rfl
@[simp] theorem decodeHeader_consoleType (h : Header) : (decodeHeader h).consoleType = hdrConsoleType h := rfl
@[simp] theorem decodeHeader_consoleSub2 (h : Header) :
    (decodeHeader h).consoleSub2 = onlyIf (subCodesUsed h) (hdrConsoleSub2 h) := rfl
@[simp] theorem decodeHeader_consoleSub3 (h : Header) :
    (decodeHeader h).consoleSub3 = onlyIf (subCodesUsed h) (hdrConsoleSub3 h) := rfl
@[simp] theorem decodeHeader_miscRomCount (h : Header) :
    (decodeHeader h).miscRomCount = onlyIf (hdrExtended h) (hdrMiscCount h) := rfl
@[simp] theorem decodeHeader_expansionDevice (h : Header) :
    (decodeHeader h).expansionDevice = onlyIf (hdrExtended h) (clampExpdev (hdrExpansion h)) := rfl
@[simp] theorem decodeHeader_prgRamSize8k (h : Header) :
    (decodeHeader h).prgRamSize8k = onlyIf (!hdrExtended h) (hdrPrgRamCount h) := rfl

/-! ### LAY -/

/-- The four ways a segment with a declared length goes (42_layout.md R142). -/
theorem walkPast_cases (n : Nat) (w : Walk) (d : Nat) :
    (d = 0 ∧ walkPast n w d = w ∧ segFits n w d = false) ∨
      (d ≠ 0 ∧ w.trunc = true ∧ walkPast n w d = w ∧ segFits n w d = false) ∨
      (d ≠ 0 ∧ w.trunc = false ∧ d ≤ n - w.off ∧ walkPast n w d = { w with off := w.off + d } ∧
        segFits n w d = true) ∨
      (d ≠ 0 ∧ w.trunc = false ∧ n - w.off < d ∧ walkPast n w d = { w with trunc := true } ∧
        segFits n w d = false) := by
  by_cases hd : d = 0
  · simp [walkPast, segFits, hd]
  · cases ht : w.trunc
    · by_cases hf : d ≤ n - w.off
      · simp [walkPast, segFits, hd, ht, hf]
      · simp [walkPast, segFits, hd, ht, hf]; omega
    · simp [walkPast, segFits, hd, ht]

/-- The running offset stays inside the file and never moves back (42_layout.md R150). -/
theorem walkPast_off (n : Nat) (w : Walk) (d : Nat) (h : w.off ≤ n) :
    w.off ≤ (walkPast n w d).off ∧ (walkPast n w d).off ≤ n := by
  rcases walkPast_cases n w d with ⟨_, h', _⟩ | ⟨_, _, h', _⟩ | ⟨_, _, _, h', _⟩ | ⟨_, _, _, h', _⟩ <;>
    rw [h'] <;> simp <;> omega

/-- Once set, the truncation flag stays set (42_layout.md R146). -/
theorem walkPast_trunc (n : Nat) (w : Walk) (d : Nat) (h : w.trunc = true) : walkPast n w d = w := by
  simp [walkPast, h]

@[simp] theorem segDescOf_offset (o l : Nat) (p : Bool) : (segDescOf o l p).offset = BitVec.ofNat 64 o := rfl
@[simp] theorem segDescOf_length (o l : Nat) (p : Bool) : (segDescOf o l p).length = BitVec.ofNat 64 l := rfl
@[simp] theorem segDescOf_present (o l : Nat) (p : Bool) : (segDescOf o l p).present = p := rfl

@[simp] theorem segmentWalk_seg0 (i : Info) (n : Nat) : (segmentWalk i n).seg[0] = segDescOf 0 headerLen true := rfl
@[simp] theorem segmentWalk_seg1 (i : Info) (n : Nat) :
    (segmentWalk i n).seg[1] = segAt n walkHeader (trainerDeclared i) := rfl
@[simp] theorem segmentWalk_seg2 (i : Info) (n : Nat) :
    (segmentWalk i n).seg[2] = segAt n (walkTrainer i n) i.prgSize.toNat := rfl
@[simp] theorem segmentWalk_seg3 (i : Info) (n : Nat) :
    (segmentWalk i n).seg[3] = segAt n (walkPrg i n) i.chrSize.toNat := rfl
@[simp] theorem segmentWalk_seg4 (i : Info) (n : Nat) : (segmentWalk i n).seg[4] = segMisc n (walkChr i n) := rfl
@[simp] theorem segmentWalk_trunc (i : Info) (n : Nat) : (segmentWalk i n).trunc = (walkChr i n).trunc := rfl
@[simp] theorem segmentWalk_misc (i : Info) (n : Nat) : (segmentWalk i n).miscDeclAbsent =
    (decide (0 < i.miscRomCount.toNat) && !(segMisc n (walkChr i n)).present) := rfl

/-- In a file of at least 16 bytes every running offset of the walk is between 16 and its length (42_layout.md R150). -/
theorem walk_offsets (i : Info) (n : Nat) (h : 16 ≤ n) :
    16 ≤ (walkTrainer i n).off ∧ (walkTrainer i n).off ≤ (walkPrg i n).off ∧
      (walkPrg i n).off ≤ (walkChr i n).off ∧ (walkChr i n).off ≤ n := by
  have h1 := walkPast_off n walkHeader (trainerDeclared i) h
  have h2 := walkPast_off n _ i.prgSize.toNat h1.2
  have h3 := walkPast_off n _ i.chrSize.toNat h2.2
  exact ⟨h1.1, h2.1, h3.1, h3.2⟩

/-- A present ProgramRom lies inside the file (42_layout.md R142, 20_memory.md R44). -/
theorem segAt_present_inside {n : Nat} {w : Walk} {d : Nat} (hn : n < 2 ^ 64) (hw : w.off ≤ n)
    (h : (segAt n w d).present = true) :
    (segAt n w d).offset.toNat = w.off ∧ (segAt n w d).length.toNat = d ∧ w.off + d ≤ n := by
  simp only [segAt, segDescOf_present, segDescOf_offset, segDescOf_length, BitVec.toNat_ofNat] at h ⊢
  simp only [segFits, Bool.and_eq_true, decide_eq_true_eq] at h
  have := h.2
  rw [Nat.mod_eq_of_lt (by omega), Nat.mod_eq_of_lt (by omega)]
  omega

/-! ### FTR -/

/-- An accepted candidate is valid, its title fits, and the registers are its fields (43_footer.md R177). -/
theorem parseFooter_some {l : FtrLayout} {c : Nat} {F : FooterBytes} {f : Ftr} (h : parseFooter l c F = some f) :
    footerValid F = true ∧ titleLength F[l.tlen] ≤ 16 ∧ f = footerFields l c F := by
  simp only [parseFooter] at h
  split at h
  · cases h
  · rename_i hn
    cases h
    simp only [Bool.or_eq_true, Bool.not_eq_true', decide_eq_true_eq, not_or, Bool.not_eq_false, not_lt] at hn
    exact ⟨hn.1, hn.2, rfl⟩

/-- A rejected candidate is invalid or its title length is above 16 (43_footer.md R168). -/
theorem parseFooter_none {l : FtrLayout} {c : Nat} {F : FooterBytes} :
    parseFooter l c F = none ↔ footerValid F = false ∨ 16 < titleLength F[l.tlen] := by
  cases hv : footerValid F <;> simp [parseFooter, hv]

/-- FOOTER's body changes FTR, STATUS and the model's counter, and nothing else (43_footer.md R160, R178). -/
theorem findFooter_frame {s t : State} (h : findFooter s = .next t) :
    t.fileLen = s.fileLen ∧ t.hdr = s.hdr ∧ t.info = s.info ∧ t.seg = s.seg ∧ t.img = s.img ∧ t.port = s.port ∧
      t.rdata = s.rdata ∧ t.config = s.config ∧ ∃ p, t.status = s.status.afterFooter p := by
  rcases findFooter_next h with ⟨_, rfl⟩ | ⟨_, F, _, ⟨_, rfl⟩ | ⟨f, _, rfl⟩⟩
  · exact ⟨rfl, rfl, rfl, rfl, rfl, rfl, rfl, rfl, false, rfl⟩
  · exact ⟨rfl, rfl, rfl, rfl, rfl, rfl, rfl, rfl, false, rfl⟩
  · exact ⟨rfl, rfl, rfl, rfl, rfl, rfl, rfl, rfl, true, rfl⟩

/-- The search condition, spelt out (43_footer.md R161). -/
theorem footerSearched_iff (s : State) :
    footerSearched s = true ↔ s.seg[2].present = true ∧ 32 ≤ s.info.prgSize.toNat := by
  simp only [footerSearched, Bool.and_eq_true, decide_eq_true_eq]
  exact Iff.rfl

/-- The search condition looks at SEG and INFO alone (43_footer.md R161). -/
theorem footerSearched_congr {s t : State} (hs : s.seg = t.seg) (hi : s.info = t.info) :
    footerSearched s = footerSearched t := by
  simp only [footerSearched, hs, hi]

/-- The candidate's place looks at SEG alone (43_footer.md R162). -/
theorem footerCandidate_congr {s t : State} (hs : s.seg = t.seg) : footerCandidate s = footerCandidate t := by
  simp only [footerCandidate, hs]

end Sys2Proof.Machine
end

