-- ==== Sys2Proof/Laws/Decode.lean ====
section
/-! SUPPORT. The command decoder, the register map and the step: the lemmas their users cite. -/

namespace Sys2Proof

theorem decode?_eq_some {c : Byte} {i : Instr} : decode? c = some i ↔ decode c = .ok i := by
  simp only [decode?]
  cases decode c <;> simp

namespace Machine

/-- A register's number names it: no number is shared (10_state.md R11, R18, R20, R22). -/
theorem regOfNumber_regNumber (r : Reg) : regOfNumber (regNumber r) = some r := by
  cases r with
  | fileLen | cmd | status => rfl
  | hdr n => revert n; decide
  | info r => cases r <;> rfl
  | seg i r => cases r <;> (revert i; decide)
  | ftr r =>
    cases r with
    | title k => revert k; decide
    | _ => rfl

theorem cmdWord_setWidth (c : Byte) : cmdWord (c.setWidth 64) = c := by
  simp [cmdWord]

/-- A step with nothing pending. -/
theorem step_idle {s : State} (h : s.port = []) : step s = .next s := by
  simp [step, h]

/-- A step with a transaction pending. -/
theorem step_txn {s : State} {tx : HostTxn} {rest : List HostTxn} (h : s.port = tx :: rest) :
    step s = runTxn tx { s with port := rest } := by
  simp [step, h]

theorem runTxn_command (c : Byte) (s : State) : runTxn (commandTxn c) s = runWord c s := by
  simp [runTxn, commandTxn, cmdWord_setWidth]

theorem runWord_legal {c : Byte} {i : Instr} (h : decode? c = some i) (s : State) : runWord c s = exec i s := by
  simp [runWord, h]

theorem runWord_illegal {c : Byte} (h : decode? c = none) (s : State) : runWord c s = execIllegal s := by
  simp [runWord, h]

end Machine

end Sys2Proof
end

