-- ==== Sys2Proof/Laws/PerInstr.lean ====
section
/-! SUPPORT. The per-instruction family CommandWord: every command's word has its ZERO field 0 and an OP that is not
reserved (30_encoding.md R55 to R57). -/

namespace Sys2Proof.Laws.CommandWord

/-- The word of a command is a legal word of the format CMD8. -/
def Statement (i : Instr) : Prop := wordWellFormed (encode i) = true ∧ i.wellFormed = true

theorem nop : Statement .nop := ⟨by decide, rfl⟩
theorem ldhdr : Statement .ldhdr := ⟨by decide, rfl⟩
theorem decode : Statement .decode := ⟨by decide, rfl⟩
theorem layout : Statement .layout := ⟨by decide, rfl⟩
theorem footer : Statement .footer := ⟨by decide, rfl⟩
theorem resolve : Statement .resolve := ⟨by decide, rfl⟩
theorem clr : Statement .clr := ⟨by decide, rfl⟩

end Sys2Proof.Laws.CommandWord
end

