-- ==== Sys2Proof/Tests/Slice0.lean ====
section
/-! SUPPORT. Tests: the well-formedness checks, words of the decoder, vectors of 95_test_vectors.md (at most two per
command), and a witness for the hypotheses of each statement. Expected values come from the spec's vectors, named in
each comment. -/

open Sys2Proof Sys2Proof.Machine

namespace Sys2Proof.Tests

/-! ### Helpers: small states -/

/-- The state a result carries, if it is a next state. -/
def after (r : Result) : Option State :=
  match r with
  | .next t => some t
  | .fault _ => none
  | .refused _ => none

/-- STATUS after a result. -/
def statusOf (r : Result) : Option (BitVec 16) := (after r).map fun t => t.status.word

/-- F8's header: NES 2.0, PRG_SIZE = expmul(0x14) = 32. -/
def hdrF8 : Header :=
  #v[0x4E, 0x45, 0x53, 0x1A, 0x14, 0x00, 0x00, 0x08, 0x00, 0x0F, 0x00, 0x00, 0x00, 0x00, 0x00, 0x00]

/-- S1's header: iNES 1.0, 2 PRG units, 1 CHR unit. -/
def hdrS1 : Header :=
  #v[0x4E, 0x45, 0x53, 0x1A, 0x02, 0x01, 0x01, 0x00, 0x00, 0x00, 0x00, 0x00, 0x00, 0x00, 0x00, 0x00]

/-- P3's header: NES 2.0, trainer, battery. -/
def hdrP3 : Header :=
  #v[0x4E, 0x45, 0x53, 0x1A, 0x15, 0x00, 0x46, 0x18, 0x23, 0x0F, 0x70, 0x07, 0x01, 0x00, 0x01, 0x00]

/-- F1's footer. -/
def footF1 : FooterBytes :=
  #v[0x20, 0x20, 0x20, 0x20, 0x20, 0x48, 0x45, 0x4C, 0x4C, 0x4F, 0x20, 0x57, 0x4F, 0x52, 0x4C, 0x44,
    0x12, 0x34, 0x56, 0x78, 0x02, 0x82, 0x01, 0x0A, 0x01, 0xA2]

/-- F5b's footer: the title-length byte at its largest, 0x0F. -/
def footF5b : FooterBytes := (footF1.set 0x17 0x0F).set 0x19 0x9D

/-- F5a's footer: the title-length byte 0x10, one too large. -/
def footF5a : FooterBytes := (footF1.set 0x17 0x10).set 0x19 0x9C

/-- F5c's footer: the title-length byte 0xFF, which gives 256, not 0. -/
def footF5c : FooterBytes := (footF1.set 0x17 0xFF).set 0x19 0xAD

/-- F2b's footer: a title, and ten zero bytes. -/
def footF2b : FooterBytes := ((footF1.toList.take 16 ++ List.replicate 10 0).toArray.toVector).cast (by decide)

/-- F8's file, 48 bytes, with the footer `F` at 22. -/
def fileF8 (F : FooterBytes) : State :=
  { State.reset with
    fileLen := 48
    img := Memory.place [] 0 (hdrF8.toList ++ List.replicate 6 0 ++ F.toList) }

/-- F8's file with the header latched. -/
def latched (F : FooterBytes) : State := latchHeader (fileF8 F) hdrF8

/-- F8's file decoded. -/
def decoded (F : FooterBytes) : State := decodeInfo (latched F)

/-- F8's file laid out. -/
def laidOut (F : FooterBytes) : State := layoutSegments (decoded F)

/-- F8's file with its footer accepted. -/
def finished (F : FooterBytes) : State := acceptFooter (laidOut F) (footerFields ftrLayoutDefault 22 F)

/-- A state whose header is latched and is `h`. -/
def withHeader (h : Header) : State := latchHeader State.reset h

/-- The file with zeros placed at every address below FILE_LEN. -/
def zeroFilled (s : State) : State := { s with img := Memory.place [] 0 (List.replicate s.fileLen.toNat 0) }

/-- A layout that swaps the default's size and board places. -/
def layoutSwapped : FtrLayout := { ftrLayoutDefault with size := 0x15, board := 0x14 }

/-- F8's file laid out, in a block built with the swapped layout. -/
def laidOutSwapped : State := { laidOut footF1 with config := { ftrLayout := layoutSwapped } }

/-- F8's 48 bytes decoded, with FILE_LEN then written to 50: two bytes more than the host placed (92 D38). -/
def decodedTooLong : State := writeFileLen (decoded footF1) 50

/-- A state that holds INFO for LAYOUT's inputs (95_test_vectors.md Part 3). -/
def withInfo (trainer : Bool) (prg chr : Nat) (misc : BitVec 2) (len : Nat) : State :=
  { State.reset with
    fileLen := BitVec.ofNat 64 len
    info := { Info.zero with
      hasTrainer := trainer
      prgSize := BitVec.ofNat 64 prg
      chrSize := BitVec.ofNat 64 chr
      miscRomCount := misc }
    status := { Status.zero with hdrValid := true, infoValid := true } }

/-- The descriptors as triples. -/
def triples (s : State) : List (Nat × Nat × Bool) :=
  s.seg.toList.map fun d => (d.offset.toNat, d.length.toNat, d.present)

/-! ### Well-formedness: one ill-formed term for each check -/

/-- ZERO set: 0x08; reserved OP: 0x07 (R57). -/
theorem test_wordWellFormed_refuses : wordWellFormed 0x08 = false ∧ wordWellFormed 0x07 = false ∧
    wordWellFormed 0x06 = true := by decide

/-- Two fields in one place, and a field outside the window (R71). -/
theorem test_ftrLayout_refuses :
    FtrLayout.wellFormed { ftrLayoutDefault with board := 0x14 } = false ∧
      FtrLayout.wellFormed { ftrLayoutDefault with size := 0x10 } = false ∧ ftrLayoutDefault.wellFormed = true := by decide

/-- FOOTER_BACK below 26 or above 32 (R162, 93 U6). -/
theorem test_footerBack_refuses : footerBackWellFormed 25 = false ∧ footerBackWellFormed 33 = false ∧
    footerBackWellFormed footerBack = true := by decide

/-- A transaction past the last 64-bit address (R40). -/
theorem test_txnLegal_refuses : txnLegal (.imgPlace 0xFFFFFFFFFFFFFFFF [1, 2]) = false ∧
    txnLegal (.imgPlace 0xFFFFFFFFFFFFFFFF [1]) = true := by decide

/-! ### The decoder: words written out from 30_encoding.md R55, R56 -/

theorem test_decode_nop : decode? 0b00000000 = some .nop ∧ decodeTableWord 8 0x00 = some .nop := by decide
theorem test_decode_ldhdr : decode? 0b00000001 = some .ldhdr ∧ decodeTableWord 8 0x01 = some .ldhdr := by decide
theorem test_decode_decode : decode? 0b00000010 = some .decode ∧ decodeTableWord 8 0x02 = some .decode := by decide
theorem test_decode_layout : decode? 0b00000011 = some .layout ∧ decodeTableWord 8 0x03 = some .layout := by decide
theorem test_decode_footer : decode? 0b00000100 = some .footer ∧ decodeTableWord 8 0x04 = some .footer := by decide
theorem test_decode_resolve : decode? 0b00000101 = some .resolve ∧ decodeTableWord 8 0x05 = some .resolve := by decide
theorem test_decode_clr : decode? 0b00000110 = some .clr ∧ decodeTableWord 8 0x06 = some .clr := by decide
theorem test_decode_illegal :
    decode 0x07 = .error .reservedOp ∧ decode 0x08 = .error .zeroFieldSet ∧ decode 0xFF = .error .zeroFieldSet := by
  exact ⟨rfl, rfl, rfl⟩

/-! ### Vectors of 95_test_vectors.md -/

/-- X14: NOP leaves STATUS; X11: also while ERR is 1. -/
theorem test_nop : statusOf (exec .nop (finished footF1)) = some 0x001F ∧
    statusOf (exec .nop (raise .sequence State.reset)) = some 0x0280 := by decide

/-- X11: CLR runs while ERR is 1 and clears FILE_LEN. -/
theorem test_clr :
    (after (exec .clr (raise .sequence (fileF8 footF1)))).map (fun t => (t.status.word, t.fileLen)) = some (0, 0) := by
  decide

/-- X8: FILE_LEN 16 is accepted; the bytes are latched unchanged. -/
theorem test_ldhdr_sixteen :
    (after (exec .ldhdr { fileF8 footF1 with fileLen := 16 })).map (fun t => (t.status.word, t.hdr)) =
      some (0x0001, hdrF8) := by decide

/-- X7: FILE_LEN 15 raises ShortImage. -/
theorem test_ldhdr_short : statusOf (exec .ldhdr { fileF8 footF1 with fileLen := 15 }) = some 0x0380 := by decide

/-- P3's header: mapper 0x314, submapper 2, trainer and battery, PRG 96 by the sentinel, CHR 0, save RAM gated on, PAL,
one miscellaneous ROM. -/
theorem test_decode_header_p3 :
    (after (exec .decode (withHeader hdrP3))).map (fun t => (t.status.word, t.info.mapper, t.info.submapper)) =
        some (0x0003, 0x314, 2) ∧
      (after (exec .decode (withHeader hdrP3))).map (fun t => (t.info.prgSize, t.info.chrSize, t.info.prgSaveRamSize)) =
        some (96, 0, 8192) ∧
      (after (exec .decode (withHeader hdrP3))).map (fun t => (t.info.chrRamSize, t.info.frameTiming,
        t.info.miscRomCount)) = some (8192, 1, 1) ∧
      (after (exec .decode (withHeader hdrP3))).map (fun t => (t.info.hasTrainer, t.info.hasBattery,
        t.info.mirroring)) = some (true, true, 0) := by decide

/-- E6, E11, E13, E14, E16, and rom_size's rows "byte 9 = 0x0F under iNES 1.0", "12-bit count", "sentinel". -/
theorem test_decode_sizes :
    [expmul 0x05, expmul 0x2B, expmul 0xF7, expmul 0xF8, expmul 0xFF] = [6, 7168, 16140901064495857664, 0, 0] ∧
      [romSize false 15 2 16384, romSize true 14 0xFF 8192, romSize true 15 5 16384] = [32768, 31449088, 6] ∧
      [ramSize 0, ramSize 1, ramSize 15] = [0, 128, 2097152] := by decide

/-- D38: with FILE_LEN 50 over 48 placed bytes LDHDR, LAYOUT and RESOLVE give no result; ShortImage comes first. -/
theorem test_unfilled_gives_no_result :
    exec .ldhdr decodedTooLong = .fault .imgNotPlaced ∧ exec .layout decodedTooLong = .fault .imgNotPlaced ∧
      exec .resolve decodedTooLong = .fault .imgNotPlaced ∧
      statusOf (exec .ldhdr (writeFileLen State.reset 15)) = some 0x0380 := ⟨rfl, rfl, rfl, by decide⟩

/-- L15: ProgramRom present, CharacterRom short, Miscellaneous declared but absent. -/
theorem test_layout_l15 :
    triples (layoutSegments (withInfo false 32768 8192 1 32784)) =
        [(0, 16, true), (16, 0, false), (16, 32768, true), (32784, 8192, false), (32784, 0, false)] ∧
      (layoutSegments (withInfo false 32768 8192 1 32784)).status.word = 0x0067 := by decide

/-- L20: the overflow corner, P = 2^61 * 7 in a file of 2^64 - 1 bytes. -/
theorem test_layout_l20 :
    triples (layoutSegments
        (withInfo false 16140901064495857664 16140901064495857664 0 18446744073709551615)) =
      [(0, 16, true), (16, 0, false), (16, 16140901064495857664, true),
        (16140901064495857680, 16140901064495857664, false), (16140901064495857680, 0, false)] := by decide

/-- F8 with F1's footer: present at 22, with the PRG override. -/
theorem test_footer_f8 :
    (after (exec .footer (laidOut footF1))).map (fun t => (t.status.word, t.ftr.offset, t.ftr.titleLen, t.ftr.prgSize)) =
        some (0x001F, 22, 11, 65536) ∧
      (after (exec .footer (laidOut footF1))).map (fun t => (t.ftr.chrSize, t.ftr.mirroring, t.ftr.mapper)) =
        some (32768, 1, 2) ∧
      (after (exec .footer (laidOut footF1))).map (fun t => (t.ftr.maker, t.ftr.checksum, t.ftr.title[5], t.ftr.sum2B1)) =
        some (0x01, 0xA2, 0x48, 0x78) := by decide

/-- R71: under another FTR_LAYOUT the size byte is read at 0x15 (0x82) and the board byte at 0x14 (0x02). -/
theorem test_footer_other_layout :
    (after (exec .footer laidOutSwapped)).map (fun t => (t.status.word, t.ftr.sizeCode, t.ftr.mapper, t.ftr.prgSize)) =
      some (0x001F, 0x82, 2, 65536) := by decide

/-- F5c (0xFF gives 256, not 0), F2b (all ten bytes zero) and F5a are rejected; F5b is accepted. -/
theorem test_footer_rejections :
    statusOf (exec .footer (laidOut footF5c)) = some 0x000F ∧ statusOf (exec .footer (laidOut footF2b)) = some 0x000F ∧
      statusOf (exec .footer (laidOut footF5a)) = some 0x000F ∧
      statusOf (exec .footer (laidOut footF5b)) = some 0x001F := by decide

/-- F8 by RESOLVE, as by LAYOUT and FOOTER. -/
theorem test_resolve_f8 : statusOf (exec .resolve (decoded footF1)) = some 0x001F ∧
    (after (exec .resolve (decoded footF1))).map triples =
      some [(0, 16, true), (16, 0, false), (16, 32, true), (48, 0, false), (48, 0, false)] := by decide

/-- X9: FILE_LEN written to 15 after DECODE: ShortImage. X10: Sequence wins over ShortImage. -/
theorem test_resolve_faults : statusOf (exec .resolve (writeFileLen (decoded footF1) 15)) = some 0x0383 ∧
    statusOf (exec .resolve State.reset) = some 0x0280 := by decide

/-- X1, X2: reserved words; X11: ignored while ERR is 1. -/
theorem test_illegal_words : statusOf (runWord 0x07 (latched footF1)) = some 0x0181 ∧
    statusOf (runWord 0xFF State.reset) = some 0x0180 ∧
    statusOf (runWord 0x07 (raise .sequence State.reset)) = some 0x0280 := by decide

/-- A host program's lines as transactions (R59, R60): `.img`, `.len`, ANALYZE as three words, `.rd STATUS`. -/
theorem test_assemble : assemble [.img 0 [0x4E, 0x45], .len 628, .analyze, .rd .status] =
    [.imgPlace 0 [0x4E, 0x45], .writeReg 0x00 628, .writeReg 0x01 0x01, .writeReg 0x01 0x02, .writeReg 0x01 0x05,
      .readReg 0x02] := by decide

/-- X12: writing FILE_LEN's old value still clears SEG_VALID and FTR_DONE. -/
theorem test_filelen_write : statusOf (runTxn (.writeReg 0x00 48) (finished footF1)) = some 0x0003 := by decide

/-- The host's two questions: the decoder's answer for a table row, and the first step after reset runs it. -/
theorem test_fetch_word : statusOf (step (State.reset.withFetchWord 8 0x02)) = some 0x0280 ∧
    statusOf (step (State.reset.withFetchWord 8 0x00)) = some 0x0000 := by decide

/-! ### Witnesses: a state that meets a statement's hypotheses, for each of its clauses -/

/-- The hypotheses on a state over which a footer candidate `F` stands ready. -/
def CandidateReady (s : State) (F : FooterBytes) : Prop :=
  s.status.err = false ∧ s.status.segValid = true ∧ s.seg[2].present = true ∧ 32 ≤ s.info.prgSize.toNat ∧
    26 ≤ s.seg[2].length.toNat ∧ s.seg[2].offset.toNat + s.seg[2].length.toNat ≤ s.fileLen.toNat ∧
    FooterAt s (s.seg[2].offset.toNat + s.seg[2].length.toNat - 26) F

theorem candidateReady_f1 : CandidateReady (laidOut footF1) footF1 := by
  unfold CandidateReady FooterAt; decide
theorem candidateReady_f2b : CandidateReady (laidOut footF2b) footF2b := by
  unfold CandidateReady FooterAt; decide
theorem candidateReady_f5a : CandidateReady (laidOut footF5a) footF5a := by
  unfold CandidateReady FooterAt; decide
theorem candidateReady_f5b : CandidateReady (laidOut footF5b) footF5b := by
  unfold CandidateReady FooterAt; decide

/-- F8's file is filled up to FILE_LEN and starts with its header. -/
theorem filled_f8 : ImgFilled (fileF8 footF1) ∧ HeaderAt (fileF8 footF1) hdrF8 := by
  unfold ImgFilled HeaderAt; decide

theorem statusSound_finished : StatusSound (finished footF1).status := by
  constructor <;> decide

/-- A state in which every stage is valid and a footer was found is sound. -/
theorem sound_finished : Sound (finished footF1) where
  status := statusSound_finished
  img := by decide
  layout := by decide
  info := fun _ => rfl
  filled := fun _ => filled_f8.1.2
  segLength := fun _ => by decide
  seg := fun _ => rfl
  trunc := fun _ => rfl
  misc := fun _ => rfl
  footerOffset := fun _ _ => by decide
  footer := fun _ => ⟨by decide, footF1, rfl⟩

/-- The same state with RESOLVE pending. -/
def pendingResolve : State := { finished footF1 with port := [commandTxn 0x05] }

theorem sound_pendingResolve : Sound pendingResolve where
  status := statusSound_finished
  img := by decide
  layout := by decide
  info := fun _ => rfl
  filled := fun _ => filled_f8.1.2
  segLength := fun _ => by decide
  seg := fun _ => rfl
  trunc := fun _ => rfl
  misc := fun _ => rfl
  footerOffset := fun _ _ => by decide
  footer := fun _ => ⟨by decide, footF1, rfl⟩

/-- A reserved word, and the low byte alone taken from the data. -/
theorem test_witness_StepRunsTheCommand :
    (State.reset.withFetchWord 8 0x06).port = .writeReg 0x01 0x06 :: [] ∧
      decode? ((0x06 : BitVec 64).setWidth 8) = some .clr ∧
      decode? ((0xFFFFFFFFFFFFFF06 : BitVec 64).setWidth 8) = some .clr := by decide

theorem test_witness_StepCarriesOutTransactions :
    State.reset.port = [] ∧
      ((State.reset.withFetchWord 8 0x07).port = .writeReg 0x01 0x07 :: [] ∧
        decode? ((0x07 : BitVec 64).setWidth 8) = none) ∧
      (({ State.reset with port := assemble [.len 15] }).port = .writeReg 0x00 15 :: [] ∧ (0x00 : BitVec 8) ≠ 0x01) ∧
      ({ State.reset with port := assemble [.rd .status] }).port = .readReg 0x02 :: [] ∧
      ({ State.reset with port := assemble [.img 5 [9]] }).port = .imgPlace 5 [9] :: [] ∧
      ({ State.reset with port := [.reset] }).port = .reset :: [] := by decide

/-- FILE_LEN 15, and FILE_LEN 16. -/
theorem test_witness_LdhdrLatchesHeader :
    (({ fileF8 footF1 with fileLen := 15 }).status.err = false ∧
      ({ fileF8 footF1 with fileLen := 15 }).fileLen.toNat < 16) ∧
    ({ fileF8 footF1 with fileLen := 16 }).status.err = false ∧
      16 ≤ ({ fileF8 footF1 with fileLen := 16 }).fileLen.toNat ∧ ImgFilled { fileF8 footF1 with fileLen := 16 } ∧
      HeaderAt { fileF8 footF1 with fileLen := 16 } hdrF8 := by
  unfold ImgFilled HeaderAt; decide

theorem test_witness_DecodeWritesInfo :
    (State.reset.status.err = false ∧ State.reset.status.hdrValid = false) ∧
      (latched footF1).status.err = false ∧ (latched footF1).status.hdrValid = true := by decide

/-- The sentinel 15, and 14 below it. -/
theorem test_witness_RomSizeFormula : (15 : BitVec 4).toNat = 15 ∧ (14 : BitVec 4).toNat ≠ 15 := by decide

/-- NES 2.0, and iNES 1.0. -/
theorem test_witness_FormatDiscriminator :
    ((withHeader hdrF8).status.err = false ∧ (withHeader hdrF8).status.hdrValid = true) ∧
      (withHeader hdrS1).status.err = false ∧ (withHeader hdrS1).status.hdrValid = true := by decide

theorem test_witness_MapperFromNibbles :
    (withHeader hdrP3).status.err = false ∧ (withHeader hdrP3).status.hdrValid = true := by decide

/-- The sentinel 15 in the PRG high field, and 14 in the CHR high field. -/
theorem test_witness_RomSizesOfHeader :
    (withHeader (hdrF8.set 9 0xEF)).status.err = false ∧ (withHeader (hdrF8.set 9 0xEF)).status.hdrValid = true ∧
      (decodeHeader (hdrF8.set 9 0xEF)).isExtended = true ∧ (0xEF : Byte).toNat % 16 = 15 ∧
      (0xEF : Byte).toNat / 16 = 14 := by decide

theorem test_witness_RamSizesOfHeader :
    (withHeader hdrP3).status.err = false ∧ (withHeader hdrP3).status.hdrValid = true ∧
      (decodeHeader hdrP3).isExtended = true ∧ hdrP3[6].getLsbD 1 = true := by decide

/-- Sub-codes used: NES 2.0 with console type 3; not used: console type 2. -/
theorem test_witness_SmallFieldsOfHeader :
    ((withHeader (hdrF8.set 7 0x0B)).status.err = false ∧ (withHeader (hdrF8.set 7 0x0B)).status.hdrValid = true ∧
      (decodeHeader (hdrF8.set 7 0x0B)).isExtended = true ∧ (hdrF8.set 7 0x0B)[7].toNat % 4 = 3) ∧
      (withHeader (hdrF8.set 7 0x0A)).status.err = false ∧ (withHeader (hdrF8.set 7 0x0A)).status.hdrValid = true ∧
      (decodeHeader (hdrF8.set 7 0x0A)).isExtended = true ∧
      ¬ ((hdrF8.set 7 0x0A)[7].toNat % 4 = 1 ∨ (hdrF8.set 7 0x0A)[7].toNat % 4 = 3) := by decide

/-- Byte 15 at 0, never above EXPDEV_KNOWN_MAX, and at 0xFF, always above it. -/
theorem test_witness_ExpansionDeviceClamped :
    ((withHeader hdrF8).status.err = false ∧ (withHeader hdrF8).status.hdrValid = true ∧
      hdrF8[15].toNat ≤ Config.expdevKnownMax.val) ∧
    (withHeader (hdrF8.set 15 0xFF)).status.err = false ∧ (withHeader (hdrF8.set 15 0xFF)).status.hdrValid = true ∧
      ¬ (hdrF8.set 15 0xFF)[15].toNat ≤ Config.expdevKnownMax.val :=
  ⟨⟨rfl, rfl, Nat.zero_le _⟩, rfl, rfl, Nat.not_le.2 Config.expdevKnownMax.isLt⟩

theorem test_witness_LegacyFieldsOfHeader :
    ((withHeader hdrS1).status.err = false ∧ (withHeader hdrS1).status.hdrValid = true ∧
      (decodeHeader hdrS1).isExtended = false) ∧
    (withHeader hdrF8).status.err = false ∧ (withHeader hdrF8).status.hdrValid = true ∧
      (decodeHeader hdrF8).isExtended = true := by decide

theorem test_witness_FormatFieldsExclusive :
    ((withHeader hdrF8).status.err = false ∧ (withHeader hdrF8).status.hdrValid = true ∧
      exec .decode (withHeader hdrF8) = .next (decodeInfo (withHeader hdrF8)) ∧
      (decodeInfo (withHeader hdrF8)).info.isExtended = true) ∧
    (withHeader hdrS1).status.err = false ∧ (withHeader hdrS1).status.hdrValid = true ∧
      exec .decode (withHeader hdrS1) = .next (decodeInfo (withHeader hdrS1)) ∧
      (decodeInfo (withHeader hdrS1)).info.isExtended = false :=
  ⟨⟨rfl, rfl, rfl, rfl⟩, rfl, rfl, rfl, rfl⟩

/-- S1's header with the magic, byte 9 above bit 0 and byte 15 changed: bits no rule reads under iNES 1.0. -/
def hdrS1' : Header := ((hdrS1.set 0 0xFF).set 9 0xFE).set 15 0x77

/-- P3's header with the magic and byte 12 above bit 1 changed: bits no rule reads under NES 2.0. -/
def hdrP3' : Header := (hdrP3.set 3 0x00).set 12 0xFD

theorem test_witness_UnreadHeaderBits_ines :
    hdrS1' ≠ hdrS1 ∧ ((withHeader hdrS1).status.err = false ∧ (withHeader hdrS1).status.hdrValid = true) ∧
      ((withHeader hdrS1').status.err = false ∧ (withHeader hdrS1').status.hdrValid = true) ∧
      hdrS1[4] = hdrS1'[4] ∧ hdrS1[5] = hdrS1'[5] ∧ hdrS1[6] = hdrS1'[6] ∧ hdrS1[7] = hdrS1'[7] ∧
      hdrS1[8] = hdrS1'[8] ∧ (decodeHeader hdrS1).isExtended = false ∧
      hdrS1[9].getLsbD 0 = hdrS1'[9].getLsbD 0 := by decide

theorem test_witness_UnreadHeaderBits_nes20 :
    hdrP3' ≠ hdrP3 ∧ ((withHeader hdrP3).status.err = false ∧ (withHeader hdrP3).status.hdrValid = true) ∧
      ((withHeader hdrP3').status.err = false ∧ (withHeader hdrP3').status.hdrValid = true) ∧
      (hdrP3[4] = hdrP3'[4] ∧ hdrP3[5] = hdrP3'[5] ∧ hdrP3[6] = hdrP3'[6] ∧ hdrP3[7] = hdrP3'[7] ∧
        hdrP3[8] = hdrP3'[8]) ∧
      hdrP3[9] = hdrP3'[9] ∧ hdrP3[10] = hdrP3'[10] ∧ hdrP3[11] = hdrP3'[11] ∧
      hdrP3[12].toNat % 4 = hdrP3'[12].toNat % 4 ∧ hdrP3[13] = hdrP3'[13] ∧
      hdrP3[14].toNat % 4 = hdrP3'[14].toNat % 4 ∧ hdrP3[15] = hdrP3'[15] := by decide

/-- A decoded header, FILE_LEN 16 and sixteen bytes placed: the Trainer is short. -/
def shortTrainer : State := zeroFilled (withInfo true 32 0 0 16)

theorem filled_shortTrainer : ImgFilled shortTrainer := by
  unfold ImgFilled; decide

/-- INFO invalid; FILE_LEN 15; FILE_LEN 16. -/
theorem test_witness_LayoutWalksSegments :
    (State.reset.status.err = false ∧ State.reset.status.infoValid = false) ∧
      ((withInfo true 32 0 0 15).status.err = false ∧ (withInfo true 32 0 0 15).status.infoValid = true ∧
        (withInfo true 32 0 0 15).fileLen.toNat < 16) ∧
      shortTrainer.status.err = false ∧ shortTrainer.status.infoValid = true ∧
        16 ≤ shortTrainer.fileLen.toNat ∧ ImgFilled shortTrainer :=
  ⟨by decide, by decide, rfl, rfl, by decide, filled_shortTrainer⟩

/-- The result LAYOUT leaves where the Trainer is short: a declared segment is absent and TRUNC is 1. -/
theorem test_witness_LayoutOrderAndTruncation :
    shortTrainer.status.err = false ∧ shortTrainer.status.infoValid = true ∧ 16 ≤ shortTrainer.fileLen.toNat ∧
      exec .layout shortTrainer = .next (layoutSegments shortTrainer) ∧
      (layoutSegments shortTrainer).status.trunc = true ∧ (layoutSegments shortTrainer).seg[1].length.toNat ≠ 0 ∧
      (layoutSegments shortTrainer).seg[1].present = false ∧ (layoutSegments shortTrainer).seg[0].present = true ∧
      (1 : Fin 5) < 2 :=
  ⟨rfl, rfl, by decide, rfl, by decide, by decide, by decide, by decide, by decide⟩

/-- From F8's decoded header: two present segments, TRUNC 0. -/
theorem test_witness_LayoutSegmentsTileTheFile :
    (decoded footF1).status.err = false ∧ (decoded footF1).status.infoValid = true ∧
      16 ≤ (decoded footF1).fileLen.toNat ∧ exec .layout (decoded footF1) = .next (laidOut footF1) ∧
      (laidOut footF1).seg[0].present = true ∧ (laidOut footF1).seg[2].present = true ∧
      (laidOut footF1).seg[1].present = false ∧ (laidOut footF1).status.trunc = false :=
  ⟨rfl, rfl, by decide, rfl, by decide, by decide, by decide, by decide⟩

/-- ProgramRom present with 31 bytes; ProgramRom of 32 bytes, absent for want of one byte. -/
theorem test_witness_FooterNotLookedFor :
    ((layoutSegments (withInfo false 31 0 0 47)).status.err = false ∧
      (layoutSegments (withInfo false 31 0 0 47)).status.segValid = true ∧
      ¬ ((layoutSegments (withInfo false 31 0 0 47)).seg[2].present = true ∧
        32 ≤ (layoutSegments (withInfo false 31 0 0 47)).info.prgSize.toNat)) ∧
    (layoutSegments (withInfo false 32 0 0 47)).status.err = false ∧
      (layoutSegments (withInfo false 32 0 0 47)).status.segValid = true ∧
      ¬ ((layoutSegments (withInfo false 32 0 0 47)).seg[2].present = true ∧
        32 ≤ (layoutSegments (withInfo false 32 0 0 47)).info.prgSize.toNat) := by decide

/-- The ten bytes zero; a valid candidate whose title-length byte is 16. -/
theorem test_witness_FooterRejected :
    (CandidateReady (laidOut footF2b) footF2b ∧ footerValid footF2b = false) ∧
      CandidateReady (laidOut footF5a) footF5a ∧ footerValid footF5a = true ∧ 16 ≤ footF5a[0x17].toNat :=
  ⟨⟨candidateReady_f2b, by decide⟩, candidateReady_f5a, by decide⟩

/-- F1's footer, and one whose title-length byte is 15. -/
theorem test_witness_FooterAccepted :
    (CandidateReady (laidOut footF1) footF1 ∧ footerValid footF1 = true ∧ footF1[0x17].toNat < 16) ∧
      CandidateReady (laidOut footF5b) footF5b ∧ footerValid footF5b = true ∧ footF5b[0x17].toNat = 15 :=
  ⟨⟨candidateReady_f1, by decide⟩, candidateReady_f5b, by decide⟩

/-- A block with another FTR_LAYOUT meets the same hypotheses. -/
theorem test_witness_FooterAccepted_otherLayout :
    CandidateReady laidOutSwapped footF1 ∧ laidOutSwapped.config.ftrLayout ≠ ftrLayoutDefault ∧
      footerValid footF1 = true ∧ footF1[laidOutSwapped.config.ftrLayout.tlen].toNat < 16 :=
  ⟨candidateReady_f1, by decide⟩

/-- By FOOTER and by RESOLVE. -/
theorem test_witness_FooterPresentImplies :
    ((laidOut footF1).config.ftrLayout.wellFormed = true ∧ (decoded footF1).config.ftrLayout.wellFormed = true) ∧
      ((laidOut footF1).status.err = false ∧ exec .footer (laidOut footF1) = .next (finished footF1)) ∧
      ((decoded footF1).status.err = false ∧ exec .resolve (decoded footF1) = .next (finished footF1)) ∧
      (finished footF1).status.err = false ∧ (finished footF1).status.ftrPresent = true :=
  ⟨by decide, ⟨rfl, rfl⟩, ⟨rfl, rfl⟩, rfl, rfl⟩

/-- INFO invalid; FILE_LEN 15; LAYOUT completes; a filled image. -/
theorem test_witness_ResolveIsLayoutThenFooter :
    (State.reset.status.err = false ∧ State.reset.status.infoValid = false) ∧
      ((withInfo true 32 0 0 15).status.err = false ∧ (withInfo true 32 0 0 15).status.infoValid = true ∧
        (withInfo true 32 0 0 15).fileLen.toNat < 16) ∧
      (shortTrainer.status.err = false ∧ shortTrainer.status.infoValid = true ∧ 16 ≤ shortTrainer.fileLen.toNat ∧
        exec .layout shortTrainer = .next (layoutSegments shortTrainer)) ∧
      (decoded footF1).status.err = false ∧ (decoded footF1).status.infoValid = true ∧
        16 ≤ (decoded footF1).fileLen.toNat ∧ ImgFilled (decoded footF1) :=
  ⟨by decide, by decide, ⟨rfl, rfl, by decide, rfl⟩, rfl, rfl, by decide, filled_f8.1⟩

/-- OP 0b111 with ZERO 0, and ZERO 1 with OP 0. -/
theorem test_witness_IllegalWordRaises : State.reset.status.err = false ∧
    (0x07 : Byte).extractLsb' 0 3 = 0b111 ∧ (0x08 : Byte).extractLsb' 3 5 ≠ 0 := by decide

/-- Each stage missing while the one before it is valid. -/
theorem test_witness_SequenceRaised :
    (State.reset.status.err = false ∧ State.reset.status.hdrValid = false) ∧
      ((latched footF1).status.err = false ∧ (latched footF1).status.infoValid = false) ∧
      (decoded footF1).status.err = false ∧ (decoded footF1).status.segValid = false := by decide

/-- FILE_LEN 15, with INFO valid. -/
theorem test_witness_ShortImageRaised :
    (withInfo false 32 0 0 15).status.err = false ∧ (withInfo false 32 0 0 15).fileLen.toNat < 16 ∧
      (withInfo false 32 0 0 15).status.infoValid = true := by decide

theorem test_witness_FaultsArePrecise :
    State.reset.status.err = false ∧ runWord 0x07 State.reset = .next (raise .illegalCommand State.reset) ∧
      (raise .illegalCommand State.reset).status.err = true := ⟨rfl, rfl, rfl⟩

/-- A word while ERR is 1, and CLR while ERR is 1. -/
theorem test_witness_FaultPriority_err :
    (raise .sequence State.reset).status.err = true ∧ (0x07 : Byte) ≠ 0x06 ∧
      runWord 0x07 (raise .sequence State.reset) = .next (raise .sequence State.reset) ∧
      runWord 0x06 (raise .sequence State.reset) = .next (clearBlock (raise .sequence State.reset)) :=
  ⟨rfl, by decide, rfl, rfl⟩

/-- An illegal word; FOOTER with SEG invalid; RESOLVE with a short file; LDHDR with a short file; RESOLVE that
completes. -/
theorem test_witness_FaultPriority :
    (State.reset.status.err = false ∧ runWord 0x07 State.reset = .next (raise .illegalCommand State.reset)) ∧
      ((decoded footF1).status.err = false ∧ (decoded footF1).status.segValid = false ∧
        runWord 0x04 (decoded footF1) = .next (raise .sequence (decoded footF1))) ∧
      ((withInfo true 32 0 0 15).status.err = false ∧ (withInfo true 32 0 0 15).status.infoValid = true ∧
        (withInfo true 32 0 0 15).fileLen.toNat < 16 ∧
        runWord 0x05 (withInfo true 32 0 0 15) = .next (raise .shortImage (withInfo true 32 0 0 15))) ∧
      (State.reset.fileLen.toNat < 16 ∧ runWord 0x01 State.reset = .next (raise .shortImage State.reset)) ∧
      (decoded footF1).status.infoValid = true ∧ ¬ (decoded footF1).fileLen.toNat < 16 ∧
        runWord 0x05 (decoded footF1) = .next (finished footF1) :=
  ⟨⟨rfl, rfl⟩, ⟨rfl, rfl, rfl⟩, ⟨rfl, rfl, by decide, rfl⟩, ⟨by decide, rfl⟩, rfl, by decide, rfl⟩

/-- ERR 1, a specified register, a transaction that leaves ERR 1, and CLR, which clears it. -/
theorem test_witness_FaultIsSticky :
    (raise .sequence State.reset).status.err = true ∧ (0x05 : Byte) ≠ 0x06 ∧
      regSpecified (raise .sequence State.reset) .status = true ∧
      runTxn (commandTxn 0x05) (raise .sequence State.reset) = .next (raise .sequence State.reset) ∧
      runTxn (commandTxn 0x06) (raise .sequence State.reset) = .next (clearBlock (raise .sequence State.reset)) :=
  ⟨rfl, by decide, rfl, rfl, rfl⟩

/-- A specified register, an unspecified one, the least and greatest numbers that are not written. -/
theorem test_witness_RegisterSpace :
    regSpecified State.reset .status = true ∧ regSpecified State.reset (.hdr 0) = false ∧
      ((0x02 : BitVec 8) ≠ 0x00 ∧ (0x02 : BitVec 8) ≠ 0x01) ∧ (0xFF : BitVec 8) ≠ 0x00 ∧ (0xFF : BitVec 8) ≠ 0x01 := by
  decide

/-- The last 64-bit address: one byte there has a place, two have none. -/
theorem test_witness_HostPlacesBytes :
    ((0xFFFFFFFFFFFFFFFF : BitVec 64).toNat + ([1] : List Byte).length ≤ 2 ^ 64 ∧ 0 < ([1] : List Byte).length ∧
      (0xFFFFFFFFFFFFFFFE : Nat) < (0xFFFFFFFFFFFFFFFF : BitVec 64).toNat ∧
      (0xFFFFFFFFFFFFFFFF : BitVec 64).toNat + ([1] : List Byte).length ≤ 2 ^ 64) ∧
      2 ^ 64 < (0xFFFFFFFFFFFFFFFF : BitVec 64).toNat + ([1, 2] : List Byte).length := by decide

/-- F8's file with FILE_LEN 50, two bytes more than placed; with the footer's last byte not placed; with FILE_LEN one
byte short of ProgramRom. -/
theorem test_witness_UnfilledImageGivesNoResult :
    (decodedTooLong.status.err = false ∧ 49 < decodedTooLong.fileLen.toNat ∧ decodedTooLong.img.read 49 = none ∧
      16 ≤ decodedTooLong.fileLen.toNat ∧ decodedTooLong.status.infoValid = true) ∧
    ((laidOut footF1).status.err = false ∧ (laidOut footF1).status.segValid = true ∧
      (laidOut footF1).seg[2].present = true ∧ 32 ≤ (laidOut footF1).info.prgSize.toNat ∧
      26 ≤ (laidOut footF1).seg[2].length.toNat) ∧
    (({ laidOut footF1 with fileLen := 47 }).fileLen.toNat <
      (laidOut footF1).seg[2].offset.toNat + (laidOut footF1).seg[2].length.toNat) ∧
    ((laidOut footF1).seg[2].offset.toNat + (laidOut footF1).seg[2].length.toNat ≤ (laidOut footF1).fileLen.toNat ∧
      ({ laidOut footF1 with img := [] }).img.read
        ((laidOut footF1).seg[2].offset.toNat + (laidOut footF1).seg[2].length.toNat - 26 + 25) = none) := by decide

/-- A hole below FILE_LEN, and the three commands answering a next state: LDHDR and LAYOUT with FILE_LEN 15, RESOLVE with
INFO invalid. -/
theorem test_witness_UnfilledImageCommandsNeverComplete :
    (14 < (withInfo true 32 0 0 15).fileLen.toNat ∧ (withInfo true 32 0 0 15).img.read 14 = none ∧
      exec .ldhdr (withInfo true 32 0 0 15) = .next (raise .shortImage (withInfo true 32 0 0 15)) ∧
      exec .layout (withInfo true 32 0 0 15) = .next (raise .shortImage (withInfo true 32 0 0 15))) ∧
    49 < (writeFileLen State.reset 50).fileLen.toNat ∧ (writeFileLen State.reset 50).img.read 49 = none ∧
      exec .resolve (writeFileLen State.reset 50) = .next (raise .sequence (writeFileLen State.reset 50)) :=
  ⟨⟨by decide, rfl, rfl, rfl⟩, by decide, rfl, rfl⟩

theorem test_witness_ConfigurationIsConstant :
    step { laidOutSwapped with port := [commandTxn 0x06] } = .next (clearBlock laidOutSwapped) := rfl

/-- Every command completes somewhere. -/
theorem test_witness_StatusWriters :
    exec .nop State.reset = .next State.reset ∧ exec .ldhdr (fileF8 footF1) = .next (latched footF1) ∧
      exec .decode (latched footF1) = .next (decoded footF1) ∧
      exec .layout (decoded footF1) = .next (laidOut footF1) ∧
      exec .footer (laidOut footF1) = .next (finished footF1) ∧
      exec .resolve (decoded footF1) = .next (finished footF1) ∧
      exec .clr (finished footF1) = .next (clearBlock (finished footF1)) :=
  ⟨rfl, rfl, rfl, rfl, rfl, rfl, rfl⟩

/-- The states above have no fault recorded, before and after. -/
theorem test_witness_StatusWriters_noErr :
    [State.reset, fileF8 footF1, latched footF1, decoded footF1, laidOut footF1, finished footF1,
      clearBlock (finished footF1)].all (fun s => !s.status.err) = true := by decide

theorem test_witness_EachRegisterHasItsWriter :
    exec .layout (decoded footF1) = .next (laidOut footF1) ∧
      exec .footer (laidOut footF1) = .next (finished footF1) := ⟨rfl, rfl⟩

theorem test_witness_CommandsAreIdempotent : exec .resolve (decoded footF1) = .next (finished footF1) := rfl

theorem test_witness_NoReadPastFileLen : Sound (finished footF1) := sound_finished

theorem test_witness_StepKeepsSound :
    Sound pendingResolve ∧ step pendingResolve = .next (finished footF1) := ⟨sound_pendingResolve, rfl⟩

theorem test_witness_FilledImageNeverStops :
    Sound pendingResolve ∧ ImgFilled pendingResolve ∧
      ∀ tx, pendingResolve.port.head? = some tx → txnLegal tx = true :=
  ⟨sound_pendingResolve, filled_f8.1, fun _ h => by cases h; rfl⟩

/-- Two states that differ in HDR and in the next free value, while HDR_VALID is 0, with a command pending. -/
theorem test_witness_UnspecifiedValuesNeverMatter :
    StatusSound State.reset.status ∧
      SameView (State.reset.withFetchWord 8 0x06)
        { State.reset.withFetchWord 8 0x06 with hdr := hdrF8, draw := 7 } ∧
      step (State.reset.withFetchWord 8 0x06) = .next (clearBlock State.reset) ∧
      step ({ State.reset with fileLen := 16 }.withFetchWord 8 0x01) = .fault .imgNotPlaced := by
  refine ⟨?_, ?_, rfl, rfl⟩
  · constructor <;> decide
  · constructor <;> first | rfl | (intro h; cases h)

theorem test_witness_AnalyzeEndsWell :
    (fileF8 footF1).status.err = false ∧ 16 ≤ (fileF8 footF1).fileLen.toNat ∧ ImgFilled (fileF8 footF1) ∧
      HeaderAt (fileF8 footF1) hdrF8 := ⟨rfl, by decide, filled_f8⟩

/-- The same file before any analysis and after one. -/
theorem test_witness_AnalyzeForgetsHistory :
    StatusSound (fileF8 footF1).status ∧ StatusSound (finished footF1).status ∧
      (fileF8 footF1).status.err = false ∧ (finished footF1).status.err = false ∧
      (fileF8 footF1).fileLen = (finished footF1).fileLen ∧ (fileF8 footF1).img = (finished footF1).img ∧
      (fileF8 footF1).port = (finished footF1).port ∧ (fileF8 footF1).config = (finished footF1).config ∧
      runCommands analyze (fileF8 footF1) = .next (finished footF1) := by
  refine ⟨?_, statusSound_finished, rfl, rfl, rfl, rfl, rfl, rfl, rfl⟩
  constructor <;> decide

end Sys2Proof.Tests
end

namespace Sys2Proof.Machine

/-! ### The configuration is no state of the block (00_scope.md R7, 10_state.md R10) -/

section
variable {s t : State}

/-- FOOTER's body leaves the configuration as it was. -/
theorem findFooter_config (h : findFooter s = .next t) : t.config = s.config := by
  obtain ⟨-, -, -, -, -, -, -, hconfig, -⟩ := findFooter_frame h
  exact hconfig

/-- No command changes the configuration. -/
theorem exec_config {i : Instr} (h : exec i s = .next t) : t.config = s.config := by
  cases i with
  | nop => rw [exec_nop] at h; cases h; rfl
  | ldhdr => obtain ⟨_, rfl⟩ | ⟨_, _, rfl⟩ | ⟨_, _, _, _, _, rfl⟩ := exec_ldhdr_next h <;> rfl
  | decode => obtain ⟨_, rfl⟩ | ⟨_, _, rfl⟩ | ⟨_, _, rfl⟩ := exec_decode_next h <;> rfl
  | layout =>
    obtain ⟨_, rfl⟩ | ⟨_, _, rfl⟩ | ⟨_, _, _, rfl⟩ | ⟨_, _, _, _, rfl⟩ := exec_layout_next h <;> rfl
  | footer =>
    obtain ⟨_, rfl⟩ | ⟨_, _, rfl⟩ | ⟨_, _, hf⟩ := exec_footer_next h
    · rfl
    · rfl
    · exact findFooter_config hf
  | resolve =>
    obtain ⟨_, rfl⟩ | ⟨_, _, rfl⟩ | ⟨_, _, _, rfl⟩ | ⟨_, _, _, _, hf⟩ := exec_resolve_next h
    · rfl
    · rfl
    · rfl
    · rw [findFooter_config hf, layoutSegments_config]
  | clr => rw [exec_clr] at h; cases h; rfl

/-- No command word changes the configuration, legal or not. -/
theorem runWord_config {c : Byte} (h : runWord c s = .next t) : t.config = s.config := by
  cases hd : decode? c with
  | some i => rw [runWord_legal hd] at h; exact exec_config h
  | none =>
    rw [runWord_illegal hd, execIllegal_next] at h
    cases h
    split <;> rfl

/-- A host write to a register leaves the configuration as it was. -/
@[simp] theorem hostWrite_config (s : State) (no : BitVec 8) (data : BitVec 64) :
    (hostWrite s no data).config = s.config := by
  unfold hostWrite
  split <;> rfl

/-- The host's placing of bytes, where it answers, changes IMG alone (20_memory.md R40). -/
theorem hostPlace_next {addr : Addr} {bytes : List Byte} (h : hostPlace s addr bytes = .next t) :
    addr.toNat + bytes.length ≤ 2 ^ 64 ∧ t = { s with img := s.img.place addr.toNat bytes } := by
  unfold hostPlace at h
  split at h
  · cases h
  · cases h; exact ⟨by omega, rfl⟩

/-- No transaction of the host changes the configuration. -/
theorem runTxn_config {tx : HostTxn} (h : runTxn tx s = .next t) : t.config = s.config := by
  cases tx with
  | writeReg no data =>
    simp only [runTxn] at h
    split at h
    · exact runWord_config h
    · cases h; exact hostWrite_config s no data
  | readReg no => cases h; rfl
  | imgPlace addr bytes => obtain ⟨-, rfl⟩ := hostPlace_next h; rfl
  | reset => cases h; rfl

/-- No step changes the configuration. -/
theorem step_config (h : step s = .next t) : t.config = s.config := by
  cases hp : s.port with
  | nil => rw [step_idle hp] at h; cases h; rfl
  | cons tx rest => rw [step_txn hp] at h; exact runTxn_config (s := { s with port := rest }) h

end

/-- Settles O43: no transaction has the configuration among the fields it writes. -/
theorem configurationIsConstant : Obligations.ConfigurationIsConstant :=
  ⟨fun _ _ h => step_config h, rfl⟩

end Sys2Proof.Machine

namespace Sys2Proof.Machine

/-! ### Unspecified values never matter (00_scope.md R9, 93 U7)

Two answers correspond when they are next states that agree in everything the spec gives a meaning, or the same stop.
Each check and each body takes agreeing states to corresponding answers, so each command, transaction and step does. -/

/-- The answers of a step that differ in nothing the spec gives a meaning. -/
inductive SameAnswer : Result → Result → Prop where
  | next {s t : State} (h : SameView s t) : SameAnswer (.next s) (.next t)
  | fault (e : Fault) : SameAnswer (.fault e) (.fault e)

section
variable {s t : State} {r q : Result}

/-- A next state corresponds to a next state that agrees with it. -/
theorem SameAnswer.exists_next (h : SameAnswer r q) {u : State} (hr : r = .next u) :
    ∃ v, q = .next v ∧ SameView u v := by
  cases h with
  | next huv => cases hr; exact ⟨_, rfl, huv⟩
  | fault e => cases hr

/-- A stop corresponds to the same stop. -/
theorem SameAnswer.fault_eq (h : SameAnswer r q) {e : Fault} (hr : r = .fault e) : q = .fault e := by
  cases h with
  | next _ => cases hr
  | fault e => exact hr

/-! What agreeing states share, besides the fields of `SameView`. -/

/-- Once FOOTER has run, its search condition is the same in both: INFO and SEG are valid then (10_state.md R15). -/
theorem footerSearched_of_sameView (hs : StatusSound s.status) (h : SameView s t) (hd : s.status.ftrDone = true) :
    footerSearched s = footerSearched t :=
  have hseg := hs.doneNeedsSeg hd
  footerSearched_congr (h.seg hseg) (h.info (hs.segNeedsInfo hseg))

/-- The same registers are specified in both. -/
theorem regSpecified_of_sameView (hs : StatusSound s.status) (h : SameView s t) (r : Reg) :
    regSpecified s r = regSpecified t r := by
  cases r with
  | fileLen | cmd | status => rfl
  | hdr _ | info _ | seg _ _ => simp only [regSpecified, h.status]
  | ftr f =>
    cases f with
    | offset =>
      simp only [regSpecified, ← h.status]
      cases hd : s.status.ftrDone with
      | false => rfl
      | true => rw [footerSearched_of_sameView hs h hd]
    | _ => simp only [regSpecified, h.status]

/-- A specified register has the same value in both. -/
theorem regValue_of_sameView (h : SameView s t) {r : Reg} (hr : regSpecified s r = true) :
    regValue s r = regValue t r := by
  cases r with
  | fileLen => exact h.fileLen
  | cmd => rfl
  | status => simp only [regValue, h.status]
  | hdr _ => simp only [regValue, h.hdr hr]
  | info _ => simp only [regValue, h.info hr]
  | seg _ _ => simp only [regValue, h.seg hr]
  | ftr f =>
    cases f with
    | offset =>
      obtain ⟨hd, hsearch⟩ := Bool.and_eq_true_iff.1 hr
      exact h.ftrOffset hd hsearch
    | _ => simp only [regValue, h.ftr hr]

/-! What a command or a transaction writes keeps two states in agreement. -/

theorem sameView_port (h : SameView s t) (p : List HostTxn) : SameView { s with port := p } { t with port := p } :=
  { h with port := rfl }

theorem sameView_raise (h : SameView s t) (f : BlockFault) : SameView (raise f s) (raise f t) :=
  { h with status := by simp only [raise_status, h.status] }

/-- After CLR or a reset no stage is valid, so the free values it leaves do not count (10_state.md R27). -/
theorem sameView_clearBlock (h : SameView s t) : SameView (clearBlock s) (clearBlock t) where
  fileLen := rfl
  status := rfl
  img := h.img
  port := h.port
  config := h.config
  hdr := by simp
  info := by simp
  seg := by simp
  ftrOffset := by simp
  ftr := by simp

theorem sameView_latchHeader (h : SameView s t) (v : Header) : SameView (latchHeader s v) (latchHeader t v) where
  fileLen := h.fileLen
  status := by simp only [latchHeader_status, h.status]
  img := h.img
  port := h.port
  config := h.config
  hdr := fun _ => rfl
  info := by simp
  seg := by simp
  ftrOffset := by simp
  ftr := by simp

/-- DECODE reads HDR alone (41_decode.md R100). -/
theorem sameView_decodeInfo (h : SameView s t) (hh : s.hdr = t.hdr) : SameView (decodeInfo s) (decodeInfo t) where
  fileLen := h.fileLen
  status := by simp only [decodeInfo_status, h.status]
  img := h.img
  port := h.port
  config := h.config
  hdr := fun _ => hh
  info := fun _ => by simp only [decodeInfo_info, hh]
  seg := by simp
  ftrOffset := by simp
  ftr := by simp

/-- LAYOUT's segments are a function of INFO and FILE_LEN (42_layout.md R140). -/
theorem layoutSegments_seg_congr (hf : s.fileLen = t.fileLen) (hi : s.info = t.info) :
    (layoutSegments s).seg = (layoutSegments t).seg := by
  simp only [layoutSegments_seg, hf, hi]

theorem sameView_layoutSegments (h : SameView s t) (hi : s.info = t.info) :
    SameView (layoutSegments s) (layoutSegments t) where
  fileLen := h.fileLen
  status := by simp only [layoutSegments_status, h.status, h.fileLen, hi]
  img := h.img
  port := h.port
  config := h.config
  hdr := h.hdr
  info := fun _ => hi
  seg := fun _ => layoutSegments_seg_congr h.fileLen hi
  ftrOffset := by simp
  ftr := by simp

/-- A FOOTER that did not search leaves no FTR register specified (43_footer.md R168). -/
theorem sameView_noFooter (h : SameView s t) (hsearch : footerSearched s = false) :
    SameView (noFooter s) (noFooter t) :=
  { h with
    status := by simp only [noFooter_status, h.status]
    ftrOffset := fun _ hs => absurd (hsearch.symm.trans hs) Bool.false_ne_true
    ftr := by simp }

/-- A rejected candidate leaves FTR.OFFSET alone specified (43_footer.md R168). -/
theorem sameView_rejectFooter (h : SameView s t) (cand : Nat) :
    SameView (rejectFooter s cand) (rejectFooter t cand) :=
  { h with
    status := by simp only [rejectFooter_status, h.status]
    ftrOffset := fun _ _ => rfl
    ftr := by simp }

theorem sameView_acceptFooter (h : SameView s t) (f : Ftr) : SameView (acceptFooter s f) (acceptFooter t f) :=
  { h with
    status := by simp only [acceptFooter_status, h.status]
    ftrOffset := fun _ _ => rfl
    ftr := fun _ => rfl }

/-- The data a read returns is the host's and may be a free value; the block's registers stay (10_state.md R24). -/
theorem sameView_hostRead (h : SameView s t) (no : BitVec 8) : SameView (hostRead s no) (hostRead t no) :=
  { h with }

theorem sameView_writeFileLen (h : SameView s t) (v : Addr) : SameView (writeFileLen s v) (writeFileLen t v) :=
  { h with
    fileLen := rfl
    status := by simp only [writeFileLen_status, h.status]
    seg := by simp
    ftrOffset := by simp
    ftr := by simp }

theorem sameView_hostWrite (h : SameView s t) (no : BitVec 8) (data : BitVec 64) :
    SameView (hostWrite s no data) (hostWrite t no data) := by
  unfold hostWrite
  split
  · exact sameView_writeFileLen h data
  · exact h

/-! The checks of a command look only at what agreeing states share (40_control.md R90). -/

theorem unlessErr_sameAnswer (h : SameView s t) (hr : SameAnswer r q) : SameAnswer (unlessErr s r) (unlessErr t q) := by
  unfold unlessErr
  rw [h.status]
  split
  · exact .next h
  · exact hr

/-- What a stage check guards may use that the stage is valid. -/
theorem needStage_sameAnswer (h : SameView s t) {v w : Bool} (hvw : v = w) (hr : v = true → SameAnswer r q) :
    SameAnswer (needStage s v r) (needStage t w q) := by
  subst hvw
  cases v with
  | false => exact .next (sameView_raise h .sequence)
  | true => exact hr rfl

theorem needImage_sameAnswer (h : SameView s t) (hr : SameAnswer r q) : SameAnswer (needImage s r) (needImage t q) := by
  unfold needImage
  rw [h.fileLen]
  split
  · exact .next (sameView_raise h .shortImage)
  · exact hr

theorem needFilled_sameAnswer (h : SameView s t) (hr : SameAnswer r q) :
    SameAnswer (needFilled s r) (needFilled t q) := by
  unfold needFilled
  rw [imgFilled_congr h.fileLen h.img]
  split
  · exact hr
  · exact .fault _

/-! The commands. -/

/-- A footer search whose fetch stops, stops (43_footer.md R163). -/
theorem findFooter_unread {e : Fault} (hs : footerSearched s = true)
    (hm : memRead s (footerCandidate s) footerLen = .error e) : findFooter s = .fault e := by
  simp only [findFooter, hs, if_true, hm]

/-- FOOTER's body reads INFO, SEG, FILE_LEN, IMG and the configuration (43_footer.md R160). -/
theorem findFooter_sameAnswer (h : SameView s t) (hseg : s.seg = t.seg) (hinfo : s.info = t.info) :
    SameAnswer (findFooter s) (findFooter t) := by
  have hsearch := footerSearched_congr hseg hinfo
  cases hs : footerSearched s with
  | false =>
    rw [findFooter_not_searched hs, findFooter_not_searched (hsearch ▸ hs)]
    exact .next (sameView_noFooter h hs)
  | true =>
    have ht : footerSearched t = true := hsearch ▸ hs
    have hcand := footerCandidate_congr hseg
    cases hm : memRead s (footerCandidate s) footerLen with
    | error e =>
      have hmt : memRead t (footerCandidate t) footerLen = .error e := by
        rw [← hm, hcand, memRead_congr _ _ h.fileLen h.img]
      rw [findFooter_unread hs hm, findFooter_unread ht hmt]
      exact .fault e
    | ok F =>
      have hmt : memRead t (footerCandidate t) footerLen = .ok F := by
        rw [← hm, hcand, memRead_congr _ _ h.fileLen h.img]
      cases hp : parseFooter s.config.ftrLayout (footerCandidate s) F with
      | none =>
        rw [findFooter_rejected hs hm hp, findFooter_rejected ht hmt (h.config ▸ hcand ▸ hp), ← hcand]
        exact .next (sameView_rejectFooter h _)
      | some f =>
        rw [findFooter_accepted hs hm hp, findFooter_accepted ht hmt (h.config ▸ hcand ▸ hp)]
        exact .next (sameView_acceptFooter h f)

theorem execLdhdr_sameAnswer (h : SameView s t) : SameAnswer (execLdhdr s) (execLdhdr t) := by
  refine unlessErr_sameAnswer h (needImage_sameAnswer h (needFilled_sameAnswer h ?_))
  rw [memRead_congr 0 16 h.fileLen h.img]
  cases memRead t 0 16 with
  | ok v => exact .next (sameView_latchHeader h v)
  | error e => exact .fault e

theorem execDecode_sameAnswer (h : SameView s t) : SameAnswer (execDecode s) (execDecode t) :=
  unlessErr_sameAnswer h <| needStage_sameAnswer h (by rw [h.status]) fun hv =>
    .next (sameView_decodeInfo h (h.hdr hv))

theorem execLayout_sameAnswer (h : SameView s t) : SameAnswer (execLayout s) (execLayout t) :=
  unlessErr_sameAnswer h <| needStage_sameAnswer h (by rw [h.status]) fun hv =>
    needImage_sameAnswer h <| needFilled_sameAnswer h <| .next (sameView_layoutSegments h (h.info hv))

/-- FOOTER checks SEG_VALID alone and reads INFO too: INFO is valid with SEG (10_state.md R15). -/
theorem execFooter_sameAnswer (hs : StatusSound s.status) (h : SameView s t) :
    SameAnswer (execFooter s) (execFooter t) :=
  unlessErr_sameAnswer h <| needStage_sameAnswer h (by rw [h.status]) fun hv =>
    findFooter_sameAnswer h (h.seg hv) (h.info (hs.segNeedsInfo hv))

theorem execResolve_sameAnswer (h : SameView s t) : SameAnswer (execResolve s) (execResolve t) :=
  unlessErr_sameAnswer h <| needStage_sameAnswer h (by rw [h.status]) fun hv =>
    needImage_sameAnswer h <| needFilled_sameAnswer h <|
      findFooter_sameAnswer (sameView_layoutSegments h (h.info hv)) (layoutSegments_seg_congr h.fileLen (h.info hv))
        (h.info hv)

theorem execIllegal_sameAnswer (h : SameView s t) : SameAnswer (execIllegal s) (execIllegal t) :=
  unlessErr_sameAnswer h (.next (sameView_raise h .illegalCommand))

/-- Every command takes agreeing states to corresponding answers. -/
theorem exec_sameAnswer (hs : StatusSound s.status) (h : SameView s t) (i : Instr) :
    SameAnswer (exec i s) (exec i t) := by
  cases i with
  | nop => rw [exec_nop, exec_nop]; exact .next h
  | ldhdr => exact execLdhdr_sameAnswer h
  | decode => exact execDecode_sameAnswer h
  | layout => exact execLayout_sameAnswer h
  | footer => exact execFooter_sameAnswer hs h
  | resolve => exact execResolve_sameAnswer h
  | clr => rw [exec_clr, exec_clr]; exact .next (sameView_clearBlock h)

/-! The host's transactions and the step. -/

theorem runWord_sameAnswer (hs : StatusSound s.status) (h : SameView s t) (c : Byte) :
    SameAnswer (runWord c s) (runWord c t) := by
  cases hd : decode? c with
  | some i => rw [runWord_legal hd, runWord_legal hd]; exact exec_sameAnswer hs h i
  | none => rw [runWord_illegal hd, runWord_illegal hd]; exact execIllegal_sameAnswer h

theorem hostPlace_sameAnswer (h : SameView s t) (addr : Addr) (bytes : List Byte) :
    SameAnswer (hostPlace s addr bytes) (hostPlace t addr bytes) := by
  unfold hostPlace
  split
  · exact .fault _
  · exact .next { h with img := by rw [h.img] }

theorem runTxn_sameAnswer (hs : StatusSound s.status) (h : SameView s t) (tx : HostTxn) :
    SameAnswer (runTxn tx s) (runTxn tx t) := by
  cases tx with
  | writeReg no data =>
    simp only [runTxn]
    split
    · exact runWord_sameAnswer hs h _
    · exact .next (sameView_hostWrite h no data)
  | readReg no => exact .next (sameView_hostRead h no)
  | imgPlace addr bytes => exact hostPlace_sameAnswer h addr bytes
  | reset => exact .next (sameView_clearBlock h)

/-- Every step takes agreeing states to corresponding answers. -/
theorem step_sameAnswer (hs : StatusSound s.status) (h : SameView s t) : SameAnswer (step s) (step t) := by
  cases hp : s.port with
  | nil =>
    rw [step_idle hp, step_idle (h.port ▸ hp)]
    exact .next h
  | cons tx rest =>
    rw [step_txn hp, step_txn (h.port ▸ hp)]
    exact runTxn_sameAnswer (s := { s with port := rest }) hs (sameView_port h rest) tx

end

/-- Settles O51: the register map, and the step as one relation between answers. -/
theorem unspecifiedValuesNeverMatter : Obligations.UnspecifiedValuesNeverMatter := by
  intro s s' hs h
  have hstep := step_sameAnswer hs h
  exact ⟨fun r => ⟨regSpecified_of_sameView hs h r, regValue_of_sameView h⟩, fun _ => hstep.exists_next,
    fun _ => hstep.fault_eq⟩

end Sys2Proof.Machine

namespace Sys2Proof.Machine

/-! ### What one command does, over all seven

The inversion lemmas of the commands as one relation, with a case for each thing a command can do: what holds of every
command is proved by cases on it. -/

/-- What a command does to a state, and what its checks have made sure of for its body (40_control.md R90). -/
inductive CommandEffect (s : State) : Instr → State → Prop where
  | idle {i : Instr} (hi : i = .nop ∨ s.status.err = true) : CommandEffect s i s
  | fault (i : Instr) (f : BlockFault) : CommandEffect s i (raise f s)
  | latch (v : Header) : CommandEffect s .ldhdr (latchHeader s v)
  | decode (hhdr : s.status.hdrValid = true) : CommandEffect s .decode (decodeInfo s)
  | layout (hinfo : s.status.infoValid = true) (hlen : 16 ≤ s.fileLen.toNat) (hfill : imgFilled s = true) :
      CommandEffect s .layout (layoutSegments s)
  | footer {t : State} (hseg : s.status.segValid = true) (hfind : findFooter s = .next t) : CommandEffect s .footer t
  | resolve {t : State} (hinfo : s.status.infoValid = true) (hlen : 16 ≤ s.fileLen.toNat)
      (hfill : imgFilled s = true) (hfind : findFooter (layoutSegments s) = .next t) : CommandEffect s .resolve t
  | clear : CommandEffect s .clr (clearBlock s)

/-- A command that answers a next state does one of these things. -/
theorem exec_effect {s t : State} {i : Instr} (h : exec i s = .next t) : CommandEffect s i t := by
  cases i with
  | nop => rw [exec_nop] at h; cases h; exact .idle (.inl rfl)
  | ldhdr =>
    obtain ⟨he, rfl⟩ | ⟨-, -, rfl⟩ | ⟨-, -, -, v, -, rfl⟩ := exec_ldhdr_next h
    · exact .idle (.inr he)
    · exact .fault _ _
    · exact .latch v
  | decode =>
    obtain ⟨he, rfl⟩ | ⟨-, -, rfl⟩ | ⟨-, hhdr, rfl⟩ := exec_decode_next h
    · exact .idle (.inr he)
    · exact .fault _ _
    · exact .decode hhdr
  | layout =>
    obtain ⟨he, rfl⟩ | ⟨-, -, rfl⟩ | ⟨-, -, -, rfl⟩ | ⟨-, hinfo, hlen, hfill, rfl⟩ := exec_layout_next h
    · exact .idle (.inr he)
    · exact .fault _ _
    · exact .fault _ _
    · exact .layout hinfo hlen hfill
  | footer =>
    obtain ⟨he, rfl⟩ | ⟨-, -, rfl⟩ | ⟨-, hseg, hfind⟩ := exec_footer_next h
    · exact .idle (.inr he)
    · exact .fault _ _
    · exact .footer hseg hfind
  | resolve =>
    obtain ⟨he, rfl⟩ | ⟨-, -, rfl⟩ | ⟨-, -, -, rfl⟩ | ⟨-, hinfo, hlen, hfill, hfind⟩ := exec_resolve_next h
    · exact .idle (.inr he)
    · exact .fault _ _
    · exact .fault _ _
    · exact .resolve hinfo hlen hfill hfind
  | clr => rw [exec_clr] at h; cases h; exact .clear

/-! ### Soundness of STATUS is kept by every update (10_state.md R14, R15) -/

section
variable {st : Status}

theorem statusSound_zero : StatusSound Status.zero := by
  constructor <;> decide

/-- The three faults have the codes 1 to 3 (60_exceptions.md R191). -/
theorem faultCode_named (f : BlockFault) : faultCode f ≠ 0 ∧ (faultCode f).toNat ≤ 3 := by
  cases f <;> decide

theorem statusSound_raised (h : StatusSound st) (f : BlockFault) : StatusSound (st.raised f) :=
  { h with
    errHasCode := iff_of_true rfl (faultCode_named f).1
    codeNamed := (faultCode_named f).2 }

theorem statusSound_segCleared (h : StatusSound st) : StatusSound st.segCleared :=
  { h with
    segNeedsInfo := nofun
    doneNeedsSeg := nofun
    presentNeedsDone := nofun
    truncNeedsSeg := nofun
    miscNeedsSeg := nofun }

theorem statusSound_afterLdhdr (h : StatusSound st) : StatusSound st.afterLdhdr :=
  { statusSound_segCleared h with
    infoNeedsHdr := nofun
    segNeedsInfo := nofun }

theorem statusSound_afterDecode (h : StatusSound st) (hhdr : st.hdrValid = true) : StatusSound st.afterDecode :=
  { statusSound_segCleared h with
    infoNeedsHdr := fun _ => hhdr
    segNeedsInfo := nofun }

theorem statusSound_afterLayout (h : StatusSound st) (hinfo : st.infoValid = true) (t m : Bool) :
    StatusSound (st.afterLayout t m) :=
  { h with
    segNeedsInfo := fun _ => hinfo
    doneNeedsSeg := nofun
    presentNeedsDone := nofun
    truncNeedsSeg := fun _ => rfl
    miscNeedsSeg := fun _ => rfl }

theorem statusSound_afterFooter (h : StatusSound st) (hseg : st.segValid = true) (p : Bool) :
    StatusSound (st.afterFooter p) :=
  { h with
    doneNeedsSeg := fun _ => hseg
    presentNeedsDone := fun _ => rfl }

/-- While ERR is 0 a sound STATUS has ERRCODE 0 (60_exceptions.md R191). -/
theorem statusSound_errCode_eq_zero (h : StatusSound st) (he : st.err = false) : st.errCode = 0 := by
  by_contra hc
  exact Bool.false_ne_true (he.symm.trans (h.errHasCode.2 hc))

end

/-! ### Soundness of the state is kept by every command and every transaction -/

section
variable {s t : State}

theorem sound_port (h : Sound s) (p : List HostTxn) : Sound { s with port := p } :=
  { h with }

theorem sound_raise (h : Sound s) (f : BlockFault) : Sound (raise f s) :=
  { h with status := statusSound_raised h.status f }

/-- While SEG is not valid no result of LAYOUT or FOOTER can be wrong (10_state.md R15). -/
theorem sound_of_seg_invalid (hst : StatusSound s.status) (hseg : s.status.segValid = false) (himg : s.img.wf = true)
    (hl : s.config.ftrLayout.wellFormed = true) (hinfo : s.status.infoValid = true → s.info = decodeHeader s.hdr) :
    Sound s :=
  have noSeg {P : Prop} (h : s.status.segValid = true) : P := absurd (hseg.symm.trans h) Bool.false_ne_true
  { status := hst
    img := himg
    layout := hl
    info := hinfo
    filled := noSeg
    segLength := noSeg
    seg := noSeg
    trunc := noSeg
    misc := noSeg
    footerOffset := fun hd => noSeg (hst.doneNeedsSeg hd)
    footer := fun hp => noSeg (hst.doneNeedsSeg (hst.presentNeedsDone hp)) }

theorem sound_clearBlock (h : Sound s) : Sound (clearBlock s) :=
  sound_of_seg_invalid statusSound_zero rfl h.img h.layout nofun

theorem sound_latchHeader (h : Sound s) (v : Header) : Sound (latchHeader s v) :=
  sound_of_seg_invalid (statusSound_afterLdhdr h.status) rfl h.img h.layout nofun

/-- DECODE makes INFO the decoded header (41_decode.md R100). -/
theorem sound_decodeInfo (h : Sound s) (hhdr : s.status.hdrValid = true) : Sound (decodeInfo s) :=
  sound_of_seg_invalid (statusSound_afterDecode h.status hhdr) rfl h.img h.layout fun _ => rfl

/-- LAYOUT makes SEG the walk's result, over a filled image only (42_layout.md R140, 70_reset R215). -/
theorem sound_layoutSegments (h : Sound s) (hinfo : s.status.infoValid = true) (hlen : 16 ≤ s.fileLen.toNat)
    (hfill : imgFilled s = true) : Sound (layoutSegments s) where
  status := statusSound_afterLayout h.status hinfo _ _
  img := h.img
  layout := h.layout
  info := h.info
  filled := fun _ _ ha => imgFilled_read hfill ha
  segLength := fun _ => hlen
  seg := fun _ => rfl
  trunc := fun _ => rfl
  misc := fun _ => rfl
  footerOffset := nofun
  footer := nofun

/-- FOOTER's body leaves FTR.OFFSET and the FTR registers as its candidate gives them (43_footer.md R162, R168, R177). -/
theorem sound_findFooter (h : Sound s) (hseg : s.status.segValid = true) (hfind : findFooter s = .next t) :
    Sound t := by
  obtain ⟨hno, rfl⟩ | ⟨hs, F, -, ⟨-, rfl⟩ | ⟨f, hp, rfl⟩⟩ := findFooter_next hfind
  · exact { h with
      status := statusSound_afterFooter h.status hseg false
      footerOffset := fun _ hs => absurd (hno.symm.trans hs) Bool.false_ne_true
      footer := nofun }
  · exact { h with
      status := statusSound_afterFooter h.status hseg false
      footerOffset := fun _ _ => rfl
      footer := nofun }
  · obtain ⟨-, -, hf⟩ := parseFooter_some hp
    exact { h with
      status := statusSound_afterFooter h.status hseg true
      footerOffset := fun _ _ => congrArg Ftr.offset hf
      footer := fun _ => ⟨hs, F, hp⟩ }

/-- Every command keeps a sound state sound. -/
theorem exec_keeps_sound {i : Instr} (h : Sound s) (hx : exec i s = .next t) : Sound t := by
  cases exec_effect hx with
  | idle => exact h
  | fault _ f => exact sound_raise h f
  | latch v => exact sound_latchHeader h v
  | decode hhdr => exact sound_decodeInfo h hhdr
  | layout hinfo hlen hfill => exact sound_layoutSegments h hinfo hlen hfill
  | footer hseg hfind => exact sound_findFooter h hseg hfind
  | resolve hinfo hlen hfill hfind => exact sound_findFooter (sound_layoutSegments h hinfo hlen hfill) rfl hfind
  | clear => exact sound_clearBlock h

/-- Every command word keeps a sound state sound, legal or not. -/
theorem runWord_keeps_sound {c : Byte} (h : Sound s) (hx : runWord c s = .next t) : Sound t := by
  cases hd : decode? c with
  | some i => rw [runWord_legal hd] at hx; exact exec_keeps_sound h hx
  | none =>
    rw [runWord_illegal hd, execIllegal_next] at hx
    cases hx
    split
    · exact h
    · exact sound_raise h _

theorem sound_hostRead (h : Sound s) (no : BitVec 8) : Sound (hostRead s no) :=
  { h with }

/-- A write of FILE_LEN invalidates what was laid out over the old length (10_state.md R17). -/
theorem sound_writeFileLen (h : Sound s) (v : Addr) : Sound (writeFileLen s v) :=
  sound_of_seg_invalid (statusSound_segCleared h.status) rfl h.img h.layout h.info

theorem sound_hostWrite (h : Sound s) (no : BitVec 8) (data : BitVec 64) : Sound (hostWrite s no data) := by
  unfold hostWrite
  split
  · exact sound_writeFileLen h data
  · exact h

/-- Placing bytes keeps IMG canonical and takes no byte away (20_memory.md R40). -/
theorem sound_imgPlace (h : Sound s) {addr : Addr} {bytes : List Byte}
    (hfit : addr.toNat + bytes.length ≤ 2 ^ 64) : Sound { s with img := s.img.place addr.toNat bytes } :=
  { h with
    img := Memory.wf_place _ _ _ hfit h.img
    filled := fun hseg a ha => Memory.isSome_place _ _ _ _ (h.filled hseg a ha) }

/-- Every transaction of the host keeps a sound state sound. -/
theorem runTxn_keeps_sound {tx : HostTxn} (h : Sound s) (hx : runTxn tx s = .next t) : Sound t := by
  cases tx with
  | writeReg no data =>
    simp only [runTxn] at hx
    split at hx
    · exact runWord_keeps_sound h hx
    · cases hx; exact sound_hostWrite h no data
  | readReg no => cases hx; exact sound_hostRead h no
  | imgPlace addr bytes =>
    obtain ⟨hfit, rfl⟩ := hostPlace_next hx
    exact sound_imgPlace h hfit
  | reset => cases hx; exact sound_clearBlock h

end

/-- Settles O49: the step is idle or a transaction, and every transaction keeps soundness. -/
theorem stepKeepsSound : Obligations.StepKeepsSound := by
  intro s t h hstep
  cases hp : s.port with
  | nil => rw [step_idle hp] at hstep; cases hstep; exact h
  | cons tx rest => rw [step_txn hp] at hstep; exact runTxn_keeps_sound (sound_port h rest) hstep

/-- Settles O48: no stage is valid after reset, so only IMG and the configuration have to be looked at. -/
theorem resetIsSound : Obligations.ResetIsSound :=
  sound_of_seg_invalid statusSound_zero rfl reset_img_wf (by decide) nofun

end Sys2Proof.Machine

namespace Sys2Proof.Machine

/-! ### Which command writes which register (10_state.md R11, R15, R17, R18, R20, R22, R23) -/

/-- Settles O45: every effect of a command names the fields it writes. -/
theorem eachRegisterHasItsWriter : Obligations.EachRegisterHasItsWriter := by
  intro s t i h
  cases exec_effect h with
  | idle | fault | latch | decode | layout | clear => simp
  | footer _ hfind =>
    obtain ⟨hlen, hhdr, hinfo, hseg, himg, hport, hrdata, hconfig, -⟩ := findFooter_frame hfind
    simp [hlen, hhdr, hinfo, hseg, himg, hport, hrdata, hconfig]
  | resolve _ _ _ hfind =>
    obtain ⟨hlen, hhdr, hinfo, -, himg, hport, hrdata, hconfig, -⟩ := findFooter_frame hfind
    simp [hlen, hhdr, hinfo, himg, hport, hrdata, hconfig]

/-- Settles O44: a command that records no fault does its own body, whose STATUS update is its row of R15's table. -/
theorem statusWriters : Obligations.StatusWriters := by
  intro s t i he h ht
  cases exec_effect h with
  | idle hi =>
    obtain rfl | herr := hi
    · exact ⟨fun _ => rfl, nofun, nofun, nofun, nofun, nofun, nofun⟩
    · exact absurd (he.symm.trans herr) Bool.false_ne_true
  | fault _ f => exact absurd ht (by simp)
  | latch v => exact ⟨nofun, fun _ => rfl, nofun, nofun, nofun, nofun, nofun⟩
  | decode => exact ⟨nofun, nofun, fun _ => rfl, nofun, nofun, nofun, nofun⟩
  | layout => exact ⟨nofun, nofun, nofun, fun _ => rfl, nofun, nofun, nofun⟩
  | footer _ hfind =>
    obtain ⟨-, -, -, -, -, -, -, -, p, hp⟩ := findFooter_frame hfind
    exact ⟨nofun, nofun, nofun, nofun, fun _ => by rw [hp]; rfl, nofun, nofun⟩
  | resolve _ _ _ hfind =>
    obtain ⟨-, -, -, -, -, -, -, -, p, hp⟩ := findFooter_frame hfind
    exact ⟨nofun, nofun, nofun, nofun, nofun, fun _ => by rw [hp]; rfl, nofun⟩
  | clear => exact ⟨nofun, nofun, nofun, nofun, nofun, nofun, fun _ => rfl⟩

/-! ### ANALYZE forgets history (10_state.md R26, 40_control.md R97) -/

section
variable {s s' : State}

/-- A run of several commands is a run of the first, then of the others. -/
theorem runCommands_cons_next {i : Instr} {is : List Instr} {t : State} (h : runCommands (i :: is) s = .next t) :
    ∃ u, exec i s = .next u ∧ runCommands is u = .next t := by
  simp only [runCommands] at h
  cases hx : exec i s with
  | next u => exact ⟨u, rfl, by simpa only [hx] using h⟩
  | fault e => rw [hx] at h; cases h
  | refused r => rw [hx] at h; cases h

theorem runCommands_cons_of_next {i : Instr} {u : State} (h : exec i s = .next u) (is : List Instr) :
    runCommands (i :: is) s = runCommands is u := by
  simp only [runCommands, h]

/-- Corresponding answers of the first command, carried on by the others. -/
theorem runCommands_cons_sameAnswer {i : Instr} {is : List Instr} (hx : SameAnswer (exec i s) (exec i s'))
    (hrest : ∀ {u v : State}, SameView u v → SameAnswer (runCommands is u) (runCommands is v)) :
    SameAnswer (runCommands (i :: is) s) (runCommands (i :: is) s') := by
  simp only [runCommands]
  generalize exec i s = r at hx
  generalize exec i s' = q at hx
  cases hx with
  | next h => exact hrest h
  | fault e => exact .fault e

/-- What follows LDHDR in ANALYZE takes agreeing states to corresponding answers. -/
theorem runDecodeResolve_sameAnswer (h : SameView s s') :
    SameAnswer (runCommands [.decode, .resolve] s) (runCommands [.decode, .resolve] s') :=
  runCommands_cons_sameAnswer (execDecode_sameAnswer h) fun h' =>
    runCommands_cons_sameAnswer (execResolve_sameAnswer h') fun h'' => .next h''

/-- With no fault recorded LDHDR leaves one and the same STATUS, whatever was valid before (40_control.md R93). -/
theorem afterLdhdr_of_clear {st : Status} (h : StatusSound st) (he : st.err = false) :
    st.afterLdhdr = { Status.zero with hdrValid := true } := by
  simp [Status.afterLdhdr, Status.segCleared, Status.zero, he, statusSound_errCode_eq_zero h he]

/-- LDHDR forgets history: after it two states that share FILE_LEN, IMG, port and configuration agree. -/
theorem sameView_latchHeader_of_inputs (hst : s.status.afterLdhdr = s'.status.afterLdhdr)
    (hlen : s.fileLen = s'.fileLen) (himg : s.img = s'.img) (hport : s.port = s'.port)
    (hconfig : s.config = s'.config) (v : Header) : SameView (latchHeader s v) (latchHeader s' v) where
  fileLen := hlen
  status := hst
  img := himg
  port := hport
  config := hconfig
  hdr := fun _ => rfl
  info := nofun
  seg := nofun
  ftrOffset := nofun
  ftr := nofun

end

/-- Settles O53: LDHDR, which must have completed, wipes out history, and DECODE and RESOLVE keep the agreement. -/
theorem analyzeForgetsHistory : Obligations.AnalyzeForgetsHistory := by
  intro s s' t hs hs' he he' hlen himg hport hconfig hrun ht
  obtain ⟨u, hldhdr, hrest⟩ := runCommands_cons_next hrun
  obtain ⟨herr, -⟩ | ⟨-, -, rfl⟩ | ⟨-, hlong, hfill, v, hread, rfl⟩ := exec_ldhdr_next hldhdr
  · exact absurd (he.symm.trans herr) Bool.false_ne_true
  · have hstuck : runCommands [.decode, .resolve] (raise .shortImage s) = .next (raise .shortImage s) := rfl
    cases hstuck.symm.trans hrest
    exact absurd ht (by simp)
  · have hldhdr' : exec .ldhdr s' = .next (latchHeader s' v) :=
      exec_ldhdr_run he' (hlen ▸ hlong) (imgFilled_congr hlen himg ▸ hfill) (memRead_congr 0 16 hlen himg ▸ hread)
    have hview := sameView_latchHeader_of_inputs
      ((afterLdhdr_of_clear hs he).trans (afterLdhdr_of_clear hs' he').symm) hlen himg hport hconfig v
    rw [analyze, runCommands_cons_of_next hldhdr']
    exact (runDecodeResolve_sameAnswer hview).exists_next hrest

/-! ### The fields of the other format (10_state.md R19) -/

/-- Without the nibble of byte 8 MAPPER has eight bits (41_decode.md R107). -/
theorem mapperOf_lt_of_not_extended {h : Header} (hext : hdrExtended h = false) : (mapperOf h).toNat < 256 := by
  have h1 := (hdrMapper1 h).isLt
  have h0 := (hdrMapper0 h).isLt
  simp only [mapperOf, hext, onlyIf_false, BitVec.toNat_setWidth, BitVec.toNat_append]
  refine Nat.lt_of_le_of_lt (Nat.mod_le _ _) (Nat.or_lt_two_pow (n := 8) ?_ (by omega))
  simp only [BitVec.ofNat_eq_ofNat, BitVec.toNat_ofNat, Nat.zero_mod, Nat.shiftLeft_eq,
    Nat.zero_mul, Nat.zero_or]
  omega

/-- Settles O19: each field of a decoded header that belongs to one format is gated by `onlyIf`. -/
theorem formatFieldsExclusive : Obligations.FormatFieldsExclusive := by
  intro s t he hv h
  rw [exec_decode_run he hv] at h
  cases h
  simp only [decodeInfo_info, decodeHeader_isExtended]
  constructor
  · intro hext
    simp [hext]
  · intro hext
    simp [hext, subCodesUsed, mapperOf_lt_of_not_extended hext]

/-! ### The register space (10_state.md R23, R24) -/

/-- The assigned numbers, in order (10_state.md R23). -/
theorem allRegs_numbers : allRegs.map regNumber =
    List.range' 0x00 3 ++ List.range' 0x10 37 ++ [0x40, 0x41, 0x42, 0x44, 0x45, 0x46, 0x48, 0x49, 0x4A, 0x4C, 0x4D,
      0x4E, 0x50, 0x51, 0x52] ++ List.range' 0x60 31 := by decide

theorem regOfNumber_eq_none {no : Nat} : regOfNumber no = none ↔ no ∉ allRegs.map regNumber := by
  simp [regOfNumber]

theorem regNumber_lt (r : Reg) : regNumber r < 256 := by
  have hmem : regNumber r ∈ allRegs.map regNumber := by
    by_contra h
    exact absurd ((regOfNumber_regNumber r).symm.trans (regOfNumber_eq_none.2 h)) (by simp)
  simp only [allRegs_numbers, List.mem_append, List.mem_range'_1, List.mem_cons, List.not_mem_nil, or_false] at hmem
  omega

/-- A value of `w` bits stays below 2^w in a 64-bit register (10_state.md R24). -/
theorem toNat_setWidth64_lt {w : Nat} (x : BitVec w) : (x.setWidth 64).toNat < 2 ^ w := by
  rw [BitVec.toNat_setWidth]
  exact Nat.lt_of_le_of_lt (Nat.mod_le _ _) x.isLt

theorem infoValue_lt (i : Info) (r : InfoReg) : (infoValue i r).toNat < 2 ^ regWidth (.info r) := by
  cases r with
  | prgSize => exact i.prgSize.isLt
  | chrSize => exact i.chrSize.isLt
  | _ => exact toNat_setWidth64_lt _

theorem segValue_lt (d : SegDesc) (i : Fin 5) (r : SegReg) : (segValue d r).toNat < 2 ^ regWidth (.seg i r) := by
  cases r with
  | offset => exact d.offset.isLt
  | length => exact d.length.isLt
  | present => exact toNat_setWidth64_lt _

theorem ftrValue_lt (f : Ftr) (r : FtrReg) : (ftrValue f r).toNat < 2 ^ regWidth (.ftr r) := by
  cases r with
  | offset => exact f.offset.isLt
  | _ => exact toNat_setWidth64_lt _

/-- What a register stores fits its width. -/
theorem regValue_lt (s : State) (r : Reg) : (regValue s r).toNat < 2 ^ regWidth r := by
  cases r with
  | fileLen => exact s.fileLen.isLt
  | cmd => exact Nat.two_pow_pos 8
  | status => exact toNat_setWidth64_lt s.status.word
  | hdr n => exact toNat_setWidth64_lt s.hdr[n]
  | info f => exact infoValue_lt s.info f
  | seg i f => exact segValue_lt s.seg[i] i f
  | ftr f => exact ftrValue_lt s.ftr f

/-- What a ReadReg of an assigned number returns (10_state.md R24). -/
theorem readRegData_regNumber (s : State) (r : Reg) : readRegData s (BitVec.ofNat 8 (regNumber r)) =
    if regSpecified s r then regValue s r
    else ((Config.unspecified s.draw (BitVec.ofNat 8 (regNumber r))).setWidth (regWidth r)).setWidth 64 := by
  have hno : (BitVec.ofNat 8 (regNumber r)).toNat = regNumber r := by
    rw [BitVec.toNat_ofNat]
    exact Nat.mod_eq_of_lt (regNumber_lt r)
  simp only [readRegData, hno, regOfNumber_regNumber]

theorem runTxn_readReg (no : BitVec 8) (s : State) : runTxn (.readReg no) s = .next (hostRead s no) := rfl

theorem runTxn_writeFileLen (v : Addr) (s : State) : runTxn (.writeReg 0x00 v) s = .next (writeFileLen s v) := rfl

theorem runTxn_writeCmd (data : BitVec 64) (s : State) :
    runTxn (.writeReg 0x01 data) s = runWord (data.setWidth 8) s := rfl

/-- A write of a number other than FILE_LEN's and CMD's does nothing (10_state.md R24). -/
theorem runTxn_writeOther {no : BitVec 8} (hlen : no ≠ 0x00) (hcmd : no ≠ 0x01) (data : BitVec 64) (s : State) :
    runTxn (.writeReg no data) s = .next s := by
  have hwrite : hostWrite s no data = s := if_neg hlen
  simp only [runTxn, hwrite]
  exact if_neg hcmd

/-- Settles O39: reads by the register map, the unassigned numbers by the list of the assigned ones, writes by their
number. -/
theorem registerSpace : Obligations.RegisterSpace := by
  refine ⟨fun s r => ?_, fun no => ?_, fun s no => ?_, fun s data => ?_, fun s data => runTxn_writeCmd data s,
    fun s no data hlen hcmd => runTxn_writeOther hlen hcmd data s⟩
  · refine ⟨_, runTxn_readReg _ s, ?_⟩
    rw [hostRead_rdata, readRegData_regNumber]
    cases hspec : regSpecified s r with
    | false => exact ⟨nofun, toNat_setWidth64_lt _⟩
    | true => exact ⟨fun _ => rfl, regValue_lt s r⟩
  · have hno := no.isLt
    simp only [regOfNumber_eq_none, allRegs_numbers, List.mem_append, List.mem_range'_1, List.mem_cons,
      List.not_mem_nil, or_false]
    omega
  · exact ⟨_, runTxn_readReg no s, rfl, rfl, rfl, rfl, rfl, rfl, rfl, rfl⟩
  · exact ⟨_, runTxn_writeFileLen data s, rfl, rfl⟩

/-- Settles O38: the write is one update of FILE_LEN and STATUS. -/
theorem fileLenWrite : Obligations.FileLenWrite := fun s v =>
  ⟨_, runTxn_writeFileLen v s, rfl, rfl, rfl, rfl, rfl, rfl, rfl, rfl, rfl, rfl, rfl⟩

/-- Settles O3: the transaction at the head of the port is a command word, and the word is legal. -/
theorem stepRunsTheCommand : Obligations.StepRunsTheCommand := by
  intro s data rest i hport hdecode
  rw [step_txn hport, runTxn_writeCmd, runWord_legal hdecode]

/-! ### Reset (10_state.md R27) and the word of STATUS (10_state.md R14) -/

/-- With STATUS 0 the registers that belong to no stage are the specified ones (10_state.md R27). -/
theorem regSpecified_of_status_zero {s : State} (hst : s.status = Status.zero) (r : Reg) :
    regSpecified s r = true ↔ r = .fileLen ∨ r = .cmd ∨ r = .status := by
  cases r with
  | fileLen | cmd | status => simp [regSpecified]
  | hdr _ | info _ | seg _ _ => simp [regSpecified, hst]
  | ftr f => cases f <;> simp [regSpecified, hst]

/-- CLR and the platform's reset leave the reset state in everything the spec gives a meaning (40_control.md R92). -/
theorem sameView_clearBlock_reset (s : State) :
    SameView (clearBlock s) { State.reset with img := s.img, port := s.port, config := s.config } where
  fileLen := rfl
  status := rfl
  img := rfl
  port := rfl
  config := rfl
  hdr := nofun
  info := nofun
  seg := nofun
  ftrOffset := nofun
  ftr := nofun

/-- Settles O5: reset and CLR are one and the same update, `clearBlock`. -/
theorem resetSpecifiesStatusAndLength : Obligations.ResetSpecifiesStatusAndLength :=
  ⟨rfl, rfl, rfl, regSpecified_of_status_zero rfl, fun s =>
    ⟨clearBlock s, rfl, exec_clr s, regSpecified_of_status_zero rfl, sameView_clearBlock_reset s⟩⟩

/-- Settles O37: bit by bit through the concatenation that makes the word. -/
theorem statusBits : Obligations.StatusBits := by
  intro st
  refine ⟨?_, ?_, ?_, ?_, ?_, ?_, ?_, ?_, ?errCode, ?reserved⟩
  case errCode =>
    ext i hi
    simp only [BitVec.getElem_extractLsb', Status.word, BitVec.getLsbD_append]
    simp [hi]
  case reserved =>
    ext i hi
    simp only [BitVec.getElem_extractLsb', Status.word, BitVec.getLsbD_append]
    simp
  all_goals
    simp only [Status.word, BitVec.getLsbD_append]
    simp

end Sys2Proof.Machine

namespace Sys2Proof.Machine

/-! ### The host's transactions, whole (20_memory.md R40, R46, R50) -/

theorem runTxn_imgPlace (addr : Addr) (bytes : List Byte) (s : State) :
    runTxn (.imgPlace addr bytes) s = hostPlace s addr bytes := rfl

/-- A placing that ends within the 64-bit addresses is carried out (20_memory.md R40). -/
theorem hostPlace_of_fits {addr : Addr} {bytes : List Byte} (h : addr.toNat + bytes.length ≤ 2 ^ 64) (s : State) :
    hostPlace s addr bytes = .next { s with img := s.img.place addr.toNat bytes } :=
  if_neg (Nat.not_lt.2 h)

/-- A placing past the last 64-bit address has no step (log 6). -/
theorem hostPlace_past_end {addr : Addr} {bytes : List Byte} (h : 2 ^ 64 < addr.toNat + bytes.length) (s : State) :
    hostPlace s addr bytes = .fault .imgNoSuchAddress :=
  if_pos h

/-- Settles O40: a placing that fits is one update of IMG, and reads see exactly its bytes changed. -/
theorem hostPlacesBytes : Obligations.HostPlacesBytes := by
  intro s addr bytes
  rw [runTxn_imgPlace]
  exact ⟨fun hfit => ⟨_, hostPlace_of_fits hfit s, fun k hk => Memory.read_place_inside _ _ k _ hk,
    fun a ha => Memory.read_place_outside _ _ a _ ha, rfl⟩, fun hpast => hostPlace_past_end hpast s⟩

/-- A write of a number other than CMD's is the host's own write of a register (10_state.md R24). -/
theorem runTxn_writeReg_of_ne_cmd {no : BitVec 8} (h : no ≠ 0x01) (data : BitVec 64) (s : State) :
    runTxn (.writeReg no data) s = .next (hostWrite s no data) :=
  if_neg h

/-- Settles O4: a step is idle or the transaction at the head of the port, case by case. -/
theorem stepCarriesOutTransactions : Obligations.StepCarriesOutTransactions := by
  intro s
  refine ⟨step_idle, ?illegal, ?write, ?read, ?place, ?reset⟩
  case illegal =>
    intro data rest hport hdecode
    rw [step_txn hport, runTxn_writeCmd, runWord_illegal hdecode]
  case write =>
    intro no data rest hport hno
    rw [step_txn hport, runTxn_writeReg_of_ne_cmd hno]
  case read => exact fun no rest hport => by rw [step_txn hport, runTxn_readReg]
  case place => exact fun addr bytes rest hport => by rw [step_txn hport, runTxn_imgPlace]
  case reset => exact fun rest hport => step_txn hport

/-! ### What a MemRead without a meaning answers (20_memory.md R42, 70_reset R215) -/

section
variable {s : State}

theorem memRead_past_fileLen {addr n : Nat} (h : s.fileLen.toNat < addr + n) :
    memRead s addr n = .error .imgBeyondFileLen :=
  if_pos h

/-- Inside FILE_LEN one byte that was never placed is enough. -/
theorem memRead_of_hole {addr n k : Nat} (hlen : addr + n ≤ s.fileLen.toNat) (hk : k < n)
    (hread : s.img.read (addr + k) = none) : memRead s addr n = .error .imgNotPlaced := by
  cases hm : memRead s addr n with
  | ok v =>
    obtain ⟨-, hv⟩ := memRead_ok hm
    exact absurd (hread.symm.trans (hv k hk)) nofun
  | error e =>
    obtain ⟨-, hlt⟩ | ⟨rfl, -⟩ := memRead_error hm
    · omega
    · rfl

/-- The candidate ends where a ProgramRom of at least 26 bytes ends (43_footer.md R162). -/
theorem footerCandidate_end (h : 26 ≤ s.seg[2].length.toNat) :
    footerCandidate s + 26 = s.seg[2].offset.toNat + s.seg[2].length.toNat := by
  simp only [footerCandidate, footerBack]
  omega

/-! ### The commands over an unfilled image (70_reset R215) -/

theorem exec_ldhdr_unfilled (he : s.status.err = false) (hl : 16 ≤ s.fileLen.toNat) (hf : imgFilled s = false) :
    exec .ldhdr s = .fault .imgNotPlaced := by
  simp only [exec, execLdhdr, unlessErr_of_clear he, needImage_of_long hl, needFilled_of_unfilled hf]

theorem exec_layout_unfilled (he : s.status.err = false) (hv : s.status.infoValid = true)
    (hl : 16 ≤ s.fileLen.toNat) (hf : imgFilled s = false) : exec .layout s = .fault .imgNotPlaced := by
  simp only [exec, execLayout, unlessErr_of_clear he, needStage_of_valid hv, needImage_of_long hl,
    needFilled_of_unfilled hf]

theorem exec_resolve_unfilled (he : s.status.err = false) (hv : s.status.infoValid = true)
    (hl : 16 ≤ s.fileLen.toNat) (hf : imgFilled s = false) : exec .resolve s = .fault .imgNotPlaced := by
  simp only [exec, execResolve, unlessErr_of_clear he, needStage_of_valid hv, needImage_of_long hl,
    needFilled_of_unfilled hf]

end

/-- Settles O41: a hole stops the three commands at their common check, and FOOTER at its fetch. -/
theorem unfilledImageGivesNoResult : Obligations.UnfilledImageGivesNoResult := by
  intro s he
  constructor
  · intro a ha hhole hlen
    have hf := imgFilled_of_hole ha hhole
    exact ⟨exec_ldhdr_unfilled he hlen hf, fun hv =>
      ⟨exec_layout_unfilled he hv hlen hf, exec_resolve_unfilled he hv hlen hf⟩⟩
  · intro hseg hpresent hprg hrom
    have hend := footerCandidate_end hrom
    rw [exec_footer_run he hseg, ← hend]
    have hsearch := (footerSearched_iff s).2 ⟨hpresent, hprg⟩
    refine ⟨fun hpast => findFooter_unread hsearch (memRead_past_fileLen hpast), fun k hk hinside hhole => ?_⟩
    rw [Nat.add_sub_cancel] at hhole
    exact findFooter_unread hsearch (memRead_of_hole hinside hk hhole)

/-! ### What stops a command (20_memory.md R42, R44) -/

section
variable {s : State} {r : Result} {e : Fault}

theorem unlessErr_fault (h : unlessErr s r = .fault e) : r = .fault e := by
  unfold unlessErr at h
  split at h
  · cases h
  · exact h

theorem needStage_fault {v : Bool} (h : needStage s v r = .fault e) : v = true ∧ r = .fault e := by
  cases v with
  | false => cases h
  | true => exact ⟨rfl, h⟩

theorem needImage_fault (h : needImage s r = .fault e) : 16 ≤ s.fileLen.toNat ∧ r = .fault e := by
  by_cases hl : s.fileLen.toNat < 16
  · rw [needImage_of_short hl] at h; cases h
  · rw [needImage_of_long (by omega)] at h; exact ⟨by omega, h⟩

theorem needFilled_fault (h : needFilled s r = .fault e) :
    (imgFilled s = false ∧ e = .imgNotPlaced) ∨ (imgFilled s = true ∧ r = .fault e) := by
  cases hf : imgFilled s with
  | false => rw [needFilled_of_unfilled hf] at h; cases h; exact .inl ⟨rfl, rfl⟩
  | true => rw [needFilled_of_filled hf] at h; exact .inr ⟨rfl, h⟩

/-- What stops a command: its check for a filled image, or a read in its body. -/
inductive CommandStop (s : State) : Instr → Fault → Prop where
  | unfilled {i : Instr} (hfill : imgFilled s = false) : CommandStop s i .imgNotPlaced
  | header {e : Fault} (hlen : 16 ≤ s.fileLen.toNat) (hfill : imgFilled s = true)
      (hread : memRead s 0 16 = .error e) : CommandStop s .ldhdr e
  | footer {e : Fault} (hseg : s.status.segValid = true) (hfind : findFooter s = .fault e) : CommandStop s .footer e
  | resolve {e : Fault} (hinfo : s.status.infoValid = true) (hlen : 16 ≤ s.fileLen.toNat)
      (hfill : imgFilled s = true) (hfind : findFooter (layoutSegments s) = .fault e) : CommandStop s .resolve e

/-- A command that stops does so for one of these reasons. -/
theorem exec_stop {i : Instr} (h : exec i s = .fault e) : CommandStop s i e := by
  cases i with
  | nop => rw [exec_nop] at h; cases h
  | ldhdr =>
    obtain ⟨hlen, h⟩ := needImage_fault (unlessErr_fault h)
    obtain ⟨hfill, rfl⟩ | ⟨hfill, h⟩ := needFilled_fault h
    · exact .unfilled hfill
    · cases hm : memRead s 0 16 with
      | ok v => rw [hm] at h; cases h
      | error e' => rw [hm] at h; cases h; exact .header hlen hfill hm
  | decode =>
    obtain ⟨-, h⟩ := needStage_fault (unlessErr_fault h)
    cases h
  | layout =>
    obtain ⟨-, h⟩ := needStage_fault (unlessErr_fault h)
    obtain ⟨-, h⟩ := needImage_fault h
    obtain ⟨hfill, rfl⟩ | ⟨-, h⟩ := needFilled_fault h
    · exact .unfilled hfill
    · cases h
  | footer =>
    obtain ⟨hseg, h⟩ := needStage_fault (unlessErr_fault h)
    exact .footer hseg h
  | resolve =>
    obtain ⟨hinfo, h⟩ := needStage_fault (unlessErr_fault h)
    obtain ⟨hlen, h⟩ := needImage_fault h
    obtain ⟨hfill, rfl⟩ | ⟨hfill, h⟩ := needFilled_fault h
    · exact .unfilled hfill
    · exact .resolve hinfo hlen hfill h
  | clr => rw [exec_clr] at h; cases h

/-- Over the walk's own segments the candidate lies inside the file: a searched ProgramRom is present, so it ends within
FILE_LEN, and it has at least 32 bytes (43_footer.md R161, R162; 20_memory.md R44). -/
theorem footerCandidate_inside (hlen : 16 ≤ s.fileLen.toNat) (hseg : s.seg = (segmentWalk s.info s.fileLen.toNat).seg)
    (hsearch : footerSearched s = true) : footerCandidate s + 26 ≤ s.fileLen.toNat := by
  obtain ⟨hpresent, hprg⟩ := (footerSearched_iff s).1 hsearch
  have hrom : s.seg[2] = segAt s.fileLen.toNat (walkTrainer s.info s.fileLen.toNat) s.info.prgSize.toNat := by
    rw [hseg, segmentWalk_seg2]
  obtain ⟨-, hoff, hoff', hoff''⟩ := walk_offsets s.info s.fileLen.toNat hlen
  obtain ⟨hoffset, hlength, hinside⟩ := segAt_present_inside s.fileLen.isLt (by omega) (hrom ▸ hpresent)
  rw [← hrom] at hoffset hlength
  rw [footerCandidate_end (by omega)]
  omega

/-- FOOTER's body over the walk's own segments reads nothing past FILE_LEN (20_memory.md R44). -/
theorem findFooter_ne_beyond (hlen : 16 ≤ s.fileLen.toNat) (hseg : s.seg = (segmentWalk s.info s.fileLen.toNat).seg) :
    findFooter s ≠ .fault .imgBeyondFileLen := by
  intro h
  obtain ⟨hsearch, hread⟩ := findFooter_fault h
  obtain ⟨-, hpast⟩ | ⟨hne, -⟩ := memRead_error hread
  · exact absurd (footerCandidate_inside hlen hseg hsearch) (Nat.not_le.2 hpast)
  · cases hne

end

/-- Settles O47: the header is inside FILE_LEN by LDHDR's own check, the footer because SEG is the walk's. -/
theorem noReadPastFileLen : Obligations.NoReadPastFileLen := by
  intro s i hs h
  cases exec_stop h with
  | header hlen _ hread =>
    obtain ⟨-, hpast⟩ | ⟨hne, -⟩ := memRead_error hread
    · omega
    · cases hne
  | footer hseg hfind => exact findFooter_ne_beyond (hs.segLength hseg) (hs.seg hseg) hfind
  | resolve _ hlen _ hfind => exact findFooter_ne_beyond (s := layoutSegments s) hlen rfl hfind

/-! ### A command issued twice (20_memory.md R47) -/

section
variable {s t : State}

theorem sameView_refl (s : State) : SameView s s :=
  ⟨rfl, rfl, rfl, rfl, rfl, fun _ => rfl, fun _ => rfl, fun _ => rfl, fun _ _ => rfl, fun _ => rfl⟩

/-- While ERR is 1 every command but CLR is ignored (60_exceptions.md R194). -/
theorem exec_of_err {i : Instr} (he : s.status.err = true) (hi : i ≠ .clr) : exec i s = .next s := by
  cases i with
  | clr => exact absurd rfl hi
  | _ => exact unlessErr_of_err he _

/-- After a recorded fault the same command is ignored. -/
theorem exec_raise {i : Instr} (f : BlockFault) (hi : i ≠ .clr) : exec i (raise f s) = .next (raise f s) :=
  exec_of_err rfl hi

/-- FOOTER's body reads nothing it writes, so it finds the same again (43_footer.md R160). -/
theorem findFooter_again (h : findFooter s = .next t) : ∃ u, findFooter t = .next u ∧ SameView t u := by
  obtain ⟨hno, rfl⟩ | ⟨hs, F, hm, ⟨hp, rfl⟩ | ⟨f, hp, rfl⟩⟩ := findFooter_next h
  · exact ⟨_, findFooter_not_searched (s := noFooter s) hno, { sameView_refl (noFooter s) with
      ftrOffset := fun _ hs => absurd (hno.symm.trans hs) Bool.false_ne_true
      ftr := nofun }⟩
  · exact ⟨_, findFooter_rejected (s := rejectFooter s (footerCandidate s)) hs hm hp,
      { sameView_refl (rejectFooter s (footerCandidate s)) with
        ftrOffset := fun _ _ => rfl
        ftr := nofun }⟩
  · exact ⟨_, findFooter_accepted (s := acceptFooter s f) hs hm hp, sameView_refl _⟩

/-- LAYOUT's body after RESOLVE's leaves what it left within RESOLVE: INFO and FILE_LEN are as they were, and FTR does
not count any more (42_layout.md R140). -/
theorem sameView_layoutSegments_of_findFooter (h : findFooter (layoutSegments s) = .next t) :
    SameView (layoutSegments s) (layoutSegments t) := by
  obtain ⟨hlen, hhdr, hinfo, -, himg, hport, -, hconfig, p, hstatus⟩ := findFooter_frame h
  exact {
    fileLen := hlen.symm
    status := by
      rw [layoutSegments_status t, hstatus, hinfo, hlen]
      rfl
    img := himg.symm
    port := hport.symm
    config := hconfig.symm
    hdr := fun _ => hhdr.symm
    info := fun _ => hinfo.symm
    seg := fun _ => layoutSegments_seg_congr hlen.symm hinfo.symm
    ftrOffset := nofun
    ftr := nofun }

theorem exec_ldhdr_again (h : exec .ldhdr s = .next t) : exec .ldhdr t = .next t := by
  obtain ⟨he, rfl⟩ | ⟨-, -, rfl⟩ | ⟨he, hlen, hfill, v, hread, rfl⟩ := exec_ldhdr_next h
  · exact h
  · exact exec_raise _ nofun
  · exact exec_ldhdr_run (s := latchHeader s v) he hlen hfill hread

theorem exec_decode_again (h : exec .decode s = .next t) : exec .decode t = .next t := by
  obtain ⟨he, rfl⟩ | ⟨-, -, rfl⟩ | ⟨he, hhdr, rfl⟩ := exec_decode_next h
  · exact h
  · exact exec_raise _ nofun
  · exact exec_decode_run (s := decodeInfo s) he hhdr

theorem exec_layout_again (h : exec .layout s = .next t) : exec .layout t = .next t := by
  obtain ⟨he, rfl⟩ | ⟨-, -, rfl⟩ | ⟨-, -, -, rfl⟩ | ⟨he, hinfo, hlen, hfill, rfl⟩ := exec_layout_next h
  · exact h
  · exact exec_raise _ nofun
  · exact exec_raise _ nofun
  · exact exec_layout_run (s := layoutSegments s) he hinfo hlen hfill

theorem exec_footer_again (h : exec .footer s = .next t) : ∃ u, exec .footer t = .next u ∧ SameView t u := by
  obtain ⟨-, rfl⟩ | ⟨-, -, rfl⟩ | ⟨he, hseg, hfind⟩ := exec_footer_next h
  · exact ⟨_, h, sameView_refl _⟩
  · exact ⟨_, exec_raise _ nofun, sameView_refl _⟩
  · obtain ⟨-, -, -, -, -, -, -, -, p, hstatus⟩ := findFooter_frame hfind
    rw [exec_footer_run (by rw [hstatus]; exact he) (by rw [hstatus]; exact hseg)]
    exact findFooter_again hfind

theorem exec_resolve_again (h : exec .resolve s = .next t) : ∃ u, exec .resolve t = .next u ∧ SameView t u := by
  obtain ⟨-, rfl⟩ | ⟨-, -, rfl⟩ | ⟨-, -, -, rfl⟩ | ⟨he, hinfo, hlen, hfill, hfind⟩ := exec_resolve_next h
  · exact ⟨_, h, sameView_refl _⟩
  · exact ⟨_, exec_raise _ nofun, sameView_refl _⟩
  · exact ⟨_, exec_raise _ nofun, sameView_refl _⟩
  · obtain ⟨hlen', -, hinfo', -, himg', -, -, -, p, hstatus⟩ := findFooter_frame hfind
    rw [exec_resolve_run (by rw [hstatus]; exact he) (by rw [hstatus]; exact hinfo) (by rw [hlen']; exact hlen)
      ((imgFilled_congr hlen' himg').trans hfill)]
    have hview := sameView_layoutSegments_of_findFooter hfind
    exact (findFooter_sameAnswer hview (hview.seg rfl) hinfo'.symm).exists_next hfind

/-- A second CLR draws other free values, for registers that are not specified (40_control.md R92). -/
theorem sameView_clearBlock_again (s : State) : SameView (clearBlock s) (clearBlock (clearBlock s)) :=
  { sameView_refl (clearBlock s) with
    hdr := nofun
    info := nofun
    seg := nofun
    ftrOffset := nofun
    ftr := nofun }

end

/-- Settles O46: a command reads nothing it writes, and after a fault its second issue is ignored. -/
theorem commandsAreIdempotent : Obligations.CommandsAreIdempotent := by
  intro s t i h
  cases i with
  | nop => exact ⟨t, exec_nop t, sameView_refl t⟩
  | ldhdr => exact ⟨t, exec_ldhdr_again h, sameView_refl t⟩
  | decode => exact ⟨t, exec_decode_again h, sameView_refl t⟩
  | layout => exact ⟨t, exec_layout_again h, sameView_refl t⟩
  | footer => exact exec_footer_again h
  | resolve => exact exec_resolve_again h
  | clr => rw [exec_clr] at h; cases h; exact ⟨_, exec_clr _, sameView_clearBlock_again s⟩

end Sys2Proof.Machine

namespace Sys2Proof

/-! ### The command word CMD8 (30_encoding.md R55 to R57) -/

/-- The number of a word, by its two fields (R55). -/
theorem toNat_eq_fields (c : Byte) : c.toNat = (cmdZero c).toNat * 8 + (cmdOp c).toNat := by
  have hop := (cmdOp c).isLt
  simp only [cmdZero, cmdOp, BitVec.extractLsb'_toNat, Nat.shiftRight_eq_div_pow] at hop ⊢
  have hc := c.isLt
  omega

/-- A command's encoding is the OP that the opcode map gives it, with ZERO 0 (R56). -/
theorem toNat_encode_of_instrOfOp {op : BitVec 3} {i : Instr} (h : instrOfOp op = some i) :
    (encode i).toNat = op.toNat := by
  revert op
  cases i <;> decide

/-- The one reserved OP (R56). -/
theorem instrOfOp_eq_none {op : BitVec 3} : instrOfOp op = none ↔ op.toNat = 7 := by
  revert op
  decide

/-- A word decodes to a command when its ZERO field is 0 and its OP is the command's (R57). -/
theorem decode_eq_ok {c : Byte} {i : Instr} : decode c = .ok i ↔ cmdZero c = 0 ∧ instrOfOp (cmdOp c) = some i := by
  by_cases hzero : cmdZero c = 0#5
  · cases hop : instrOfOp (cmdOp c) <;> simp [decode, hzero, hop]
  · simp [decode, hzero]

/-- A word is illegal when a bit of its ZERO field is set or its OP is the reserved one (R57). -/
theorem decode?_eq_none {c : Byte} : decode? c = none ↔ cmdZero c ≠ 0 ∨ instrOfOp (cmdOp c) = none := by
  simp only [Option.eq_none_iff_forall_ne_some, ne_eq, decode?_eq_some, decode_eq_ok, not_and]
  by_cases hzero : cmdZero c = 0
  · simp only [hzero, forall_const, not_true_eq_false, false_or]
  · simp only [hzero, false_implies, implies_true, not_false_eq_true, true_or]

/-- The illegal words are those from 7 on (R57). -/
theorem decode?_eq_none_iff_le {c : Byte} : decode? c = none ↔ 7 ≤ c.toNat := by
  have hop := (cmdOp c).isLt
  have hzero : cmdZero c = 0 ↔ (cmdZero c).toNat = 0 := BitVec.toNat_inj.symm
  rw [decode?_eq_none, instrOfOp_eq_none, toNat_eq_fields c, ne_eq, hzero]
  omega

theorem decode_encode (i : Instr) : decode (encode i) = .ok i := by
  cases i <;> rfl

theorem decode?_encode (i : Instr) : decode? (encode i) = some i :=
  decode?_eq_some.2 (decode_encode i)

/-- A command has no other word than its encoding (R56). -/
theorem eq_encode_of_decode {c : Byte} {i : Instr} (h : decode c = .ok i) : c = encode i := by
  obtain ⟨hzero, hop⟩ := decode_eq_ok.1 h
  apply BitVec.eq_of_toNat_eq
  rw [toNat_encode_of_instrOfOp hop, toNat_eq_fields c, hzero]
  simp

/-- Settles O2: decoding is read off the two fields of the word. -/
theorem decodeInvertsEncode : Obligations.DecodeInvertsEncode :=
  ⟨decode_encode, fun _ _ => eq_encode_of_decode, fun _ => decode?_eq_none_iff_le⟩

/-- Settles O1: the seven words are the encodings, the other three are 7 or more. -/
theorem opcodeMapWords : Obligations.OpcodeMapWords :=
  ⟨decode?_encode .nop, decode?_encode .ldhdr, decode?_encode .decode, decode?_encode .layout, decode?_encode .footer,
    decode?_encode .resolve, decode?_encode .clr, decode?_eq_none_iff_le.2 (by decide),
    decode?_eq_none_iff_le.2 (by decide), decode?_eq_none_iff_le.2 (by decide)⟩

end Sys2Proof

namespace Sys2Proof.Machine

/-! ### What DECODE does not read (30_encoding.md R69) -/

/-- Two headers agree on the bytes that both formats read (30_encoding.md R61 to R63). -/
structure SameCommonBytes (h h' : Header) : Prop where
  byte4 : h[4] = h'[4]
  byte5 : h[5] = h'[5]
  byte6 : h[6] = h'[6]
  byte7 : h[7] = h'[7]
  byte8 : h[8] = h'[8]

/-- Two headers agree on every bit that some rule reads in the extended format (30_encoding.md R61, R63). -/
structure SameReadBits (h h' : Header) : Prop extends SameCommonBytes h h' where
  byte9 : h[9] = h'[9]
  byte10 : h[10] = h'[10]
  byte11 : h[11] = h'[11]
  timing : hdrFrameTiming h = hdrFrameTiming h'
  byte13 : h[13] = h'[13]
  miscCount : hdrMiscCount h = hdrMiscCount h'
  byte15 : h[15] = h'[15]

/-- INFO of a header that is not extended: bytes 4 to 8 and the PAL flag, every other register 0
(41_decode.md R112, R123). -/
theorem decodeHeader_of_not_extended {h : Header} (hext : hdrExtended h = false) :
    decodeHeader h = { Info.zero with
      mapper := (0#4 ++ hdrMapper1 h ++ hdrMapper0 h).setWidth 16
      isPalLegacy := hdrPal h
      prgSize := BitVec.ofNat 64 ((hdrPrgLow h).toNat * prgUnit)
      chrSize := BitVec.ofNat 64 ((hdrChrLow h).toNat * chrUnit)
      mirroring := hdrMirroring h
      hasFourScreenVram := hdrFourScreen h
      hasBattery := hdrBattery h
      hasTrainer := hdrTrainer h
      consoleType := hdrConsoleType h
      prgRamSize8k := hdrPrgRamCount h } := by
  simp [decodeHeader, Info.zero, mapperOf, prgSizeOf, chrSizeOf, romSize, subCodesUsed, hext]

section
variable {h h' : Header}

/-- Agreeing on bits 1:0 as numbers is agreeing on the field (00_scope.md R8). -/
theorem extractLsb'_low_two_congr {b b' : Byte} (hb : b.toNat % 4 = b'.toNat % 4) :
    b.extractLsb' 0 2 = b'.extractLsb' 0 2 := by
  apply BitVec.eq_of_toNat_eq
  simpa only [BitVec.extractLsb'_toNat, Nat.shiftRight_zero] using hb

/-- The format is read from byte 7 (30_encoding.md R64). -/
theorem hdrExtended_congr (hc : SameCommonBytes h h') : hdrExtended h = hdrExtended h' := by
  simp only [hdrExtended, hdrFormat, hc.byte7]

/-- A header that is not extended is decoded from bytes 4 to 8 and the PAL flag alone (30_encoding.md R69). -/
theorem decodeHeader_congr_of_not_extended (hext : hdrExtended h = false) (hc : SameCommonBytes h h')
    (hpal : hdrPal h = hdrPal h') : decodeHeader h = decodeHeader h' := by
  rw [decodeHeader_of_not_extended hext, decodeHeader_of_not_extended ((hdrExtended_congr hc).symm.trans hext)]
  simp only [hdrMapper1, hdrMapper0, hdrPrgLow, hdrChrLow, hdrMirroring, hdrFourScreen, hdrBattery, hdrTrainer,
    hdrConsoleType, hdrPrgRamCount, hpal, hc.byte4, hc.byte5, hc.byte6, hc.byte7, hc.byte8]

/-- Every header is decoded from the bits that some rule reads (30_encoding.md R69). -/
theorem decodeHeader_congr (hr : SameReadBits h h') : decodeHeader h = decodeHeader h' := by
  simp only [decodeHeader, mapperOf, prgSizeOf, chrSizeOf, subCodesUsed, hdrExtended_congr hr.toSameCommonBytes,
    hdrPrgLow, hdrChrLow, hr.byte4, hr.byte5,
    hdrMapper0, hdrMirroring, hdrBattery, hdrTrainer, hdrFourScreen, hr.byte6,
    hdrMapper1, hdrConsoleType, hr.byte7,
    hdrMapper2, hdrSubmapper, hdrPrgRamCount, hr.byte8,
    hdrPal, hdrPrgHigh, hdrChrHigh, hr.byte9,
    hdrPrgRamShift, hdrPrgSaveShift, hr.byte10,
    hdrChrRamShift, hdrChrSaveShift, hr.byte11,
    hdrConsoleSub2, hdrConsoleSub3, hr.byte13,
    hdrExpansion, hr.byte15, hr.timing, hr.miscCount]

end

/-- Settles O20: DECODE's INFO is `decodeHeader` of HDR, a function of the bits its format reads. -/
theorem unreadHeaderBits : Obligations.UnreadHeaderBits := by
  intro s s' he hv he' hv' h4 h5 h6 h7 h8
  have hc : SameCommonBytes s.hdr s'.hdr := ⟨h4, h5, h6, h7, h8⟩
  refine ⟨_, _, exec_decode_run he hv, exec_decode_run he' hv', ?_, ?_⟩
  · intro hext hpal
    exact decodeHeader_congr_of_not_extended hext hc hpal
  · intro h9 h10 h11 h12 h13 h14 h15
    exact decodeHeader_congr { hc with
      byte9 := h9
      byte10 := h10
      byte11 := h11
      timing := extractLsb'_low_two_congr h12
      byte13 := h13
      miscCount := extractLsb'_low_two_congr h14
      byte15 := h15 }

/-! ### ANALYZE over a filled image (30_encoding.md R60, 40_control.md R98) -/

section
variable {s : State}

/-- FOOTER's body over the walk's own segments of a filled image completes: its candidate lies inside the file, and every
byte of the file is there (20_memory.md R44, 70_reset R215). -/
theorem findFooter_of_filled (hlen : 16 ≤ s.fileLen.toNat) (hfill : imgFilled s = true)
    (hseg : s.seg = (segmentWalk s.info s.fileLen.toNat).seg) : ∃ t, findFooter s = .next t := by
  cases hfind : findFooter s with
  | next t => exact ⟨t, rfl⟩
  | fault e =>
    obtain ⟨hsearch, hread⟩ := findFooter_fault hfind
    have hinside := footerCandidate_inside hlen hseg hsearch
    obtain ⟨F, hF⟩ := memRead_of_filled (n := footerLen) hinside fun k hk =>
      imgFilled_read hfill (Nat.lt_of_lt_of_le (Nat.add_lt_add_left hk _) hinside)
    exact absurd (hread.symm.trans hF) nofun
  | refused r => exact absurd hfind (findFooter_ne_refused s r)

/-- The host's header is what LDHDR reads (40_control.md R93). -/
theorem memRead_header {h : Header} (hlen : 16 ≤ s.fileLen.toNat) (hh : HeaderAt s h) : memRead s 0 16 = .ok h :=
  memRead_of_read (by omega) fun k hk => by rw [Nat.zero_add]; exact hh k hk

/-- ANALYZE is RESOLVE's two bodies over the decoded header (30_encoding.md R60). -/
theorem runCommands_analyze {h : Header} {t : State} (he : s.status.err = false) (hlen : 16 ≤ s.fileLen.toNat)
    (hfill : imgFilled s = true) (hread : memRead s 0 16 = .ok h)
    (hfind : findFooter (layoutSegments (decodeInfo (latchHeader s h))) = .next t) :
    runCommands analyze s = .next t := by
  have hresolve := (exec_resolve_run (s := decodeInfo (latchHeader s h)) he rfl hlen hfill).trans hfind
  rw [analyze, runCommands_cons_of_next (exec_ldhdr_run he hlen hfill hread),
    runCommands_cons_of_next (exec_decode_run (s := latchHeader s h) he rfl), runCommands_cons_of_next hresolve]
  rfl

end

/-- Settles O52: each command establishes what the next one checks, and the footer's fetch stays inside the image. -/
theorem analyzeEndsWell : Obligations.AnalyzeEndsWell := by
  intro s h he hlen ⟨hwf, hbytes⟩ hh
  have hfill := imgFilled_of_read hwf hbytes
  obtain ⟨t, hfind⟩ := findFooter_of_filled (s := layoutSegments (decodeInfo (latchHeader s h))) hlen hfill rfl
  obtain ⟨hfileLen, hhdr, hinfo, hseg, himg, -, -, -, p, hstatus⟩ := findFooter_frame hfind
  refine ⟨t, runCommands_analyze he hlen hfill (memRead_header hlen hh) hfind, ?_, hhdr, hinfo, hseg, ?_, ?_, hfileLen⟩
  · simp [EndedWell, hstatus, he]
  · simp [hstatus]
  · simp [himg]

end Sys2Proof.Machine

namespace Sys2Proof.Machine

/-! ### Every command completes or raises over a filled image (40_control.md R90) -/

section
variable {s : State} {r : Result}

/-! A check answers a next state itself, or passes on what it guards. -/

theorem unlessErr_completes (h : ∃ t, r = .next t) : ∃ t, unlessErr s r = .next t := by
  unfold unlessErr
  split
  · exact ⟨s, rfl⟩
  · exact h

/-- What a stage check guards may use that the stage is valid. -/
theorem needStage_completes {v : Bool} (h : v = true → ∃ t, r = .next t) : ∃ t, needStage s v r = .next t := by
  cases v with
  | false => exact ⟨_, rfl⟩
  | true => exact h rfl

/-- What the length check guards may use that the file holds a header. -/
theorem needImage_completes (h : 16 ≤ s.fileLen.toNat → ∃ t, r = .next t) : ∃ t, needImage s r = .next t := by
  by_cases hlen : s.fileLen.toNat < 16
  · exact ⟨_, needImage_of_short hlen r⟩
  · rw [needImage_of_long (by omega)]
    exact h (by omega)

theorem needFilled_completes (hfill : imgFilled s = true) (h : ∃ t, r = .next t) : ∃ t, needFilled s r = .next t := by
  rwa [needFilled_of_filled hfill]

/-- Over a filled image LDHDR's fetch lies below FILE_LEN, by its length check (40_control.md R93). -/
theorem execLdhdr_completes (hfill : imgFilled s = true) : ∃ t, execLdhdr s = .next t := by
  refine unlessErr_completes (needImage_completes fun hlen => needFilled_completes hfill ?_)
  obtain ⟨v, hread⟩ := memRead_of_filled (s := s) (addr := 0) (n := 16) (by omega)
    fun k hk => imgFilled_read hfill (by omega)
  exact ⟨latchHeader s v, by rw [hread]⟩

/-- From a sound state over a filled image every command answers a next state. -/
theorem exec_completes (hs : Sound s) (hfill : imgFilled s = true) (i : Instr) : ∃ t, exec i s = .next t := by
  cases i with
  | nop => exact ⟨s, exec_nop s⟩
  | ldhdr => exact execLdhdr_completes hfill
  | decode => exact unlessErr_completes (needStage_completes fun _ => ⟨_, rfl⟩)
  | layout =>
    exact unlessErr_completes <| needStage_completes fun _ => needImage_completes fun _ =>
      needFilled_completes hfill ⟨_, rfl⟩
  | footer =>
    exact unlessErr_completes <| needStage_completes fun hseg =>
      findFooter_of_filled (hs.segLength hseg) hfill (hs.seg hseg)
  | resolve =>
    exact unlessErr_completes <| needStage_completes fun _ => needImage_completes fun hlen =>
      needFilled_completes hfill (findFooter_of_filled (s := layoutSegments s) hlen hfill rfl)
  | clr => exact ⟨_, exec_clr s⟩

/-- A command word completes too where it is reserved: it is ignored or raises (60_exceptions.md R192). -/
theorem runWord_completes (hs : Sound s) (hfill : imgFilled s = true) (c : Byte) : ∃ t, runWord c s = .next t := by
  cases hd : decode? c with
  | some i => rw [runWord_legal hd]; exact exec_completes hs hfill i
  | none => rw [runWord_illegal hd]; exact ⟨_, execIllegal_next s⟩

/-- A transaction within the address space answers a next state (20_memory.md R40). -/
theorem runTxn_completes (hs : Sound s) (hfill : imgFilled s = true) {tx : HostTxn} (hlegal : txnLegal tx = true) :
    ∃ t, runTxn tx s = .next t := by
  cases tx with
  | writeReg no data =>
    by_cases hno : no = 0x01
    · subst hno
      rw [runTxn_writeCmd]
      exact runWord_completes hs hfill _
    · exact ⟨_, runTxn_writeReg_of_ne_cmd hno data s⟩
  | readReg no => exact ⟨_, runTxn_readReg no s⟩
  | imgPlace addr bytes => exact ⟨_, hostPlace_of_fits (of_decide_eq_true hlegal) s⟩
  | reset => exact ⟨_, rfl⟩

end

/-- Settles O50: the block is idle, or its next transaction completes. -/
theorem filledImageNeverStops : Obligations.FilledImageNeverStops := by
  intro s hs ⟨hwf, hbytes⟩ hlegal
  have hfill := imgFilled_of_read hwf hbytes
  cases hport : s.port with
  | nil => exact ⟨s, step_idle hport⟩
  | cons tx rest =>
    rw [step_txn hport]
    exact runTxn_completes (sound_port hs rest) hfill (hlegal tx (by rw [hport]; rfl))

/-! ### NOP, CLR and LDHDR (40_control.md R91 to R93) -/

/-- LDHDR over a file that holds no header raises ShortImage (40_control.md R90). -/
theorem exec_ldhdr_short {s : State} (he : s.status.err = false) (hlen : s.fileLen.toNat < 16) :
    exec .ldhdr s = .next (raise .shortImage s) := by
  simp only [exec, execLdhdr, unlessErr_of_clear he, needImage_of_short hlen]

/-- Settles O8: `raise` below sixteen bytes, and `latchHeader` of the host's header from there on. -/
theorem ldhdrLatchesHeader : Obligations.LdhdrLatchesHeader := by
  refine ⟨rfl, fun s he => ⟨exec_ldhdr_short he, ?_⟩⟩
  intro h hlen ⟨hwf, hbytes⟩ hheader
  have hrun := exec_ldhdr_run he hlen (imgFilled_of_read hwf hbytes) (memRead_header hlen hheader)
  exact ⟨latchHeader s h, hrun, rfl, rfl, rfl, rfl, rfl, rfl, fun _ => rfl, rfl, rfl, rfl, rfl⟩

/-- Settles O6: the check of ERR and the body of NOP answer the same state. -/
theorem nopChangesNothing : Obligations.NopChangesNothing :=
  ⟨rfl, exec_nop⟩

/-- STATUS after reset reads as 0 (10_state.md R27). -/
theorem Status.zero_word : Status.zero.word = 0x0000 := by decide

/-- Settles O7: CLR is the update `clearBlock`, after which STATUS is 0 and no stage is valid. -/
theorem clrRestoresReset : Obligations.ClrRestoresReset :=
  ⟨rfl, fun s => ⟨clearBlock s, exec_clr s, Status.zero_word, rfl, regSpecified_of_status_zero rfl, sameView_clearBlock_reset s,
    fun _ => rfl, rfl, rfl, rfl⟩⟩

end Sys2Proof.Machine

namespace Sys2Proof.Machine

/-! ### DECODE (41_decode.md) -/

/-! The fields of the header's bytes as numbers (30_encoding.md R61 to R68, R107). -/

/-- The low bits of a byte, as a number (00_scope.md R8). -/
theorem toNat_extractLsb'_low (b : Byte) (n : Nat) : (b.extractLsb' 0 n).toNat = b.toNat % 2 ^ n := by
  rw [BitVec.extractLsb'_toNat, Nat.shiftRight_zero]

/-- The bits of a byte from place `k` up, as a number (00_scope.md R8). -/
theorem toNat_extractLsb'_high (b : Byte) {k n : Nat} (h : k + n = 8) :
    (b.extractLsb' k n).toNat = b.toNat / 2 ^ k := by
  rw [BitVec.extractLsb'_toNat, Nat.shiftRight_eq_div_pow]
  apply Nat.mod_eq_of_lt
  rw [Nat.div_lt_iff_lt_mul (Nat.two_pow_pos k), ← Nat.pow_add, Nat.add_comm, h]
  exact b.isLt

theorem sizeExponent_toNat (x : Byte) : (sizeExponent x).toNat = x.toNat / 4 := toNat_extractLsb'_high x rfl
theorem sizeMultiplier_toNat (x : Byte) : (sizeMultiplier x).toNat = x.toNat % 4 := toNat_extractLsb'_low x 2

section
variable (h : Header)

@[simp] theorem hdrMapper0_toNat : (hdrMapper0 h).toNat = h[6].toNat / 16 := toNat_extractLsb'_high h[6] rfl
@[simp] theorem hdrMapper1_toNat : (hdrMapper1 h).toNat = h[7].toNat / 16 := toNat_extractLsb'_high h[7] rfl
@[simp] theorem hdrMapper2_toNat : (hdrMapper2 h).toNat = h[8].toNat % 16 := toNat_extractLsb'_low h[8] 4
@[simp] theorem hdrSubmapper_toNat : (hdrSubmapper h).toNat = h[8].toNat / 16 := toNat_extractLsb'_high h[8] rfl
@[simp] theorem hdrMirroring_toNat : (hdrMirroring h).toNat = h[6].toNat % 2 := toNat_extractLsb'_low h[6] 1
@[simp] theorem hdrConsoleType_toNat : (hdrConsoleType h).toNat = h[7].toNat % 4 := toNat_extractLsb'_low h[7] 2
@[simp] theorem hdrPrgHigh_toNat : (hdrPrgHigh h).toNat = h[9].toNat % 16 := toNat_extractLsb'_low h[9] 4
@[simp] theorem hdrChrHigh_toNat : (hdrChrHigh h).toNat = h[9].toNat / 16 := toNat_extractLsb'_high h[9] rfl
@[simp] theorem hdrPrgRamShift_toNat : (hdrPrgRamShift h).toNat = h[10].toNat % 16 := toNat_extractLsb'_low h[10] 4
@[simp] theorem hdrPrgSaveShift_toNat : (hdrPrgSaveShift h).toNat = h[10].toNat / 16 := toNat_extractLsb'_high h[10] rfl
@[simp] theorem hdrChrRamShift_toNat : (hdrChrRamShift h).toNat = h[11].toNat % 16 := toNat_extractLsb'_low h[11] 4
@[simp] theorem hdrChrSaveShift_toNat : (hdrChrSaveShift h).toNat = h[11].toNat / 16 := toNat_extractLsb'_high h[11] rfl
@[simp] theorem hdrFrameTiming_toNat : (hdrFrameTiming h).toNat = h[12].toNat % 4 := toNat_extractLsb'_low h[12] 2
@[simp] theorem hdrConsoleSub2_toNat : (hdrConsoleSub2 h).toNat = h[13].toNat % 16 := toNat_extractLsb'_low h[13] 4
@[simp] theorem hdrConsoleSub3_toNat : (hdrConsoleSub3 h).toNat = h[13].toNat / 16 := toNat_extractLsb'_high h[13] rfl
@[simp] theorem hdrMiscCount_toNat : (hdrMiscCount h).toNat = h[14].toNat % 4 := toNat_extractLsb'_low h[14] 2

/-- The format bits are 0b10 when the upper is set and the lower clear (R64, R101). -/
theorem hdrExtended_eq_bits : hdrExtended h = (h[7].getLsbD 3 && !h[7].getLsbD 2) := by
  have hbits : ∀ f : BitVec 2, (f == 0b10) = (f.getLsbD 1 && !f.getLsbD 0) := by decide
  rw [hdrExtended, hbits, hdrFormat]
  simp only [BitVec.getLsbD_extractLsb']
  rfl

/-- The sub-codes count in the extended format, under console type 1 or 3 (R120). -/
theorem subCodesUsed_iff :
    subCodesUsed h = true ↔ hdrExtended h = true ∧ (h[7].toNat % 4 = 1 ∨ h[7].toNat % 4 = 3) := by
  simp only [subCodesUsed, Bool.and_eq_true, Bool.or_eq_true, beq_iff_eq, ← BitVec.toNat_inj, hdrConsoleType_toNat]
  rfl

end

/-! The formulas of 41_decode.md section 2, as numbers. -/

/-- A gated field is the number of its bits where the gate is open, and 0 elsewhere (R112). -/
theorem onlyIf_toNat {c : Bool} {p : Prop} [Decidable p] (hc : c = true ↔ p) {w n : Nat} {v : BitVec w}
    (hv : v.toNat = n) : (onlyIf c v).toNat = if p then n else 0 := by
  cases c with
  | false => exact (if_neg fun hp => Bool.false_ne_true (hc.2 hp)).symm
  | true => exact hv.trans (if_pos (hc.1 rfl)).symm

theorem expmul_eq (x : Byte) :
    expmul x = if x.toNat / 4 > 61 then 0 else 2 ^ (x.toNat / 4) * (2 * (x.toNat % 4) + 1) := by
  simp only [expmul, sizeExponent_toNat, sizeMultiplier_toNat, expMax]

theorem romSize_of_not_extended (high : BitVec 4) (low : Byte) (unit : Nat) :
    romSize false high low unit = low.toNat * unit := rfl

theorem romSize_of_sentinel {high : BitVec 4} (h : high.toNat = 15) (low : Byte) (unit : Nat) :
    romSize true high low unit = expmul low :=
  if_pos (BitVec.eq_of_toNat_eq h)

theorem romSize_of_ne_sentinel {high : BitVec 4} (h : high.toNat ≠ 15) (low : Byte) (unit : Nat) :
    romSize true high low unit = (high.toNat * 256 + low.toNat) * unit :=
  if_neg fun hs => h (congrArg BitVec.toNat hs)

/-- The three cases of a ROM size in one formula (R103, R104). -/
theorem romSize_eq (ext : Bool) (high : BitVec 4) (low : Byte) (unit : Nat) :
    romSize ext high low unit =
      if ext = false then low.toNat * unit
      else if high.toNat = 15 then
        (if low.toNat / 4 > 61 then 0 else 2 ^ (low.toNat / 4) * (2 * (low.toNat % 4) + 1))
      else (high.toNat * 256 + low.toNat) * unit := by
  cases ext with
  | false => exact romSize_of_not_extended high low unit
  | true =>
    rw [if_neg (by decide)]
    by_cases h : high.toNat = 15
    · rw [if_pos h, romSize_of_sentinel h, expmul_eq]
    · rw [if_neg h, romSize_of_ne_sentinel h]

/-- A RAM register holds its size, by the number of its shift; nothing wraps (R105, R106). -/
theorem ofNat_ramSize_toNat {shift : BitVec 4} {n : Nat} (hn : shift.toNat = n) :
    (BitVec.ofNat 32 (ramSize shift)).toNat = if n = 0 then 0 else 64 * 2 ^ n := by
  subst hn
  have hzero : shift = 0 ↔ shift.toNat = 0 := BitVec.toNat_inj.symm
  rw [BitVec.toNat_ofNat, Nat.mod_eq_of_lt (ramSize_lt shift)]
  simp only [ramSize, hzero, ramUnit, Nat.shiftLeft_eq]

/-- The clamped code as a number; the sentinel fits the byte (R122). -/
theorem clampExpdev_toNat (v : Byte) :
    (clampExpdev v).toNat =
      if v.toNat ≤ Config.expdevKnownMax.val then v.toNat else Config.expdevKnownMax.val + 1 := by
  have hk := Config.expdevKnownMax.isLt
  unfold clampExpdev
  split
  · rfl
  · exact Nat.mod_eq_of_lt (by omega)

/-- A field set beside a nibble counts sixteenfold (R107). -/
theorem toNat_append_nibble {w : Nat} (x : BitVec w) (y : BitVec 4) : (x ++ y).toNat = x.toNat * 16 + y.toNat := by
  rw [BitVec.toNat_append, ← Nat.shiftLeft_add_eq_or_of_lt y.isLt, Nat.shiftLeft_eq]

/-- MAPPER is its three nibbles, the third only when extended (R107). -/
theorem mapperOf_toNat (h : Header) :
    (mapperOf h).toNat =
      (if hdrExtended h = true then h[8].toNat % 16 else 0) * 256 + h[7].toNat / 16 * 16 + h[6].toNat / 16 := by
  rw [mapperOf, BitVec.toNat_setWidth_of_le (by decide), toNat_append_nibble, toNat_append_nibble,
    onlyIf_toNat Iff.rfl (hdrMapper2_toNat h), hdrMapper1_toNat, hdrMapper0_toNat]
  omega

/-- DECODE before any LDHDR raises Sequence (40_control.md R90). -/
theorem exec_decode_noHeader {s : State} (he : s.status.err = false) (hv : s.status.hdrValid = false) :
    exec .decode s = .next (raise .sequence s) := by
  simp only [exec, execDecode, unlessErr_of_clear he, needStage_of_invalid hv]

/-- Settles O11: `mapperOf` as a number. -/
theorem mapperFromNibbles : Obligations.MapperFromNibbles := fun s he hv =>
  ⟨decodeInfo s, exec_decode_run he hv, mapperOf_toNat s.hdr⟩

/-- Settles O14: no formula's value wraps its register, and each is `romSize` of its fields. -/
theorem romSizesOfHeader : Obligations.RomSizesOfHeader := by
  intro s he hv
  refine ⟨decodeInfo s, exec_decode_run he hv, ?_, ?_⟩
  · rw [decodeInfo_info, decodeHeader_prgSize, prgSizeOf_toNat, romSize_eq, hdrPrgHigh_toNat]
    rfl
  · rw [decodeInfo_info, decodeHeader_chrSize, chrSizeOf_toNat, romSize_eq, hdrChrHigh_toNat]
    rfl

/-- Settles O15: each RAM register is the size of its shift, behind its gate. -/
theorem ramSizesOfHeader : Obligations.RamSizesOfHeader := fun s he hv =>
  ⟨decodeInfo s, exec_decode_run he hv,
    onlyIf_toNat Iff.rfl (ofNat_ramSize_toNat (hdrPrgRamShift_toNat s.hdr)),
    onlyIf_toNat Iff.rfl (ofNat_ramSize_toNat (hdrChrRamShift_toNat s.hdr)),
    onlyIf_toNat Bool.and_eq_true_iff (ofNat_ramSize_toNat (hdrPrgSaveShift_toNat s.hdr)),
    onlyIf_toNat Bool.and_eq_true_iff (ofNat_ramSize_toNat (hdrChrSaveShift_toNat s.hdr))⟩

/-- Settles O16: each small field is its bits as a number, behind the gate it has. -/
theorem smallFieldsOfHeader : Obligations.SmallFieldsOfHeader := by
  intro s he hv
  have hsub : ((hdrSubmapper s.hdr).setWidth 8).toNat = s.hdr[8].toNat / 16 := by
    rw [BitVec.toNat_setWidth_of_le (by decide), hdrSubmapper_toNat]
  exact ⟨decodeInfo s, exec_decode_run he hv,
    onlyIf_toNat Iff.rfl hsub, hdrMirroring_toNat s.hdr, rfl, rfl, rfl, hdrConsoleType_toNat s.hdr,
    onlyIf_toNat Iff.rfl (hdrFrameTiming_toNat s.hdr),
    onlyIf_toNat (subCodesUsed_iff s.hdr) (hdrConsoleSub2_toNat s.hdr),
    onlyIf_toNat (subCodesUsed_iff s.hdr) (hdrConsoleSub3_toNat s.hdr),
    onlyIf_toNat Iff.rfl (hdrMiscCount_toNat s.hdr)⟩

/-- Settles O17: the clamp as a number, behind the format's gate. -/
theorem expansionDeviceClamped : Obligations.ExpansionDeviceClamped := by
  intro s he hv
  refine ⟨decodeInfo s, exec_decode_run he hv, ?_⟩
  rw [decodeInfo_info, decodeHeader_expansionDevice, decodeHeader_isExtended]
  cases hdrExtended s.hdr with
  | false => rfl
  | true => exact clampExpdev_toNat s.hdr[15]

/-- Settles O9: `raise` without a header, and else `decodeInfo`, which writes INFO and STATUS alone. -/
theorem decodeWritesInfo : Obligations.DecodeWritesInfo :=
  ⟨rfl, fun s he => ⟨exec_decode_noHeader he, fun hv => ⟨decodeInfo s, exec_decode_run he hv,
    rfl, rfl, rfl, rfl, rfl, rfl, fun _ => rfl, rfl, rfl, rfl, rfl⟩⟩⟩

/-- Settles O10: IS_EXTENDED is the comparison of the two format bits. -/
theorem formatDiscriminator : Obligations.FormatDiscriminator := fun s he hv =>
  ⟨decodeInfo s, exec_decode_run he hv, hdrExtended_eq_bits s.hdr⟩

/-- Settles O12: the largest result is 2^61 * 7. -/
theorem exponentMultiplierSize : Obligations.ExponentMultiplierSize := fun x =>
  ⟨expmul_eq x, Nat.lt_of_le_of_lt (expmul_le x) (by decide)⟩

/-- Settles O13: the three cases of `romSize`. -/
theorem romSizeFormula : Obligations.RomSizeFormula := fun high low unit =>
  ⟨romSize_of_not_extended high low unit, fun h => romSize_of_sentinel h low unit,
    fun h => romSize_of_ne_sentinel h low unit⟩

/-- Settles O18: each field is behind the old format's gate. -/
theorem legacyFieldsOfHeader : Obligations.LegacyFieldsOfHeader := by
  intro s he hv
  refine ⟨decodeInfo s, exec_decode_run he hv, ?_⟩
  rw [decodeInfo_info, decodeHeader_isExtended, decodeHeader_prgRamSize8k, decodeHeader_isPalLegacy]
  cases hdrExtended s.hdr with
  | false => exact ⟨rfl, rfl⟩
  | true => exact ⟨rfl, rfl⟩

end Sys2Proof.Machine

namespace Sys2Proof.Machine

/-! ### LAYOUT (42_layout.md) -/

/-- LAYOUT before any DECODE raises Sequence (40_control.md R90). -/
theorem exec_layout_noInfo {s : State} (he : s.status.err = false) (hv : s.status.infoValid = false) :
    exec .layout s = .next (raise .sequence s) := by
  simp only [exec, execLayout, unlessErr_of_clear he, needStage_of_invalid hv]

/-- LAYOUT over a file that holds no header raises ShortImage (40_control.md R90). -/
theorem exec_layout_short {s : State} (he : s.status.err = false) (hv : s.status.infoValid = true)
    (hlen : s.fileLen.toNat < 16) : exec .layout s = .next (raise .shortImage s) := by
  simp only [exec, execLayout, unlessErr_of_clear he, needStage_of_valid hv, needImage_of_short hlen]

/-- A next state of a LAYOUT whose preconditions hold is the completed one. -/
theorem exec_layout_completed {s t : State} (he : s.status.err = false) (hv : s.status.infoValid = true)
    (hlen : 16 ≤ s.fileLen.toNat) (h : exec .layout s = .next t) : t = layoutSegments s := by
  obtain ⟨he', -⟩ | ⟨-, hv', -⟩ | ⟨-, -, hlen', -⟩ | ⟨-, -, -, -, ht⟩ := exec_layout_next h
  · exact absurd (he.symm.trans he') nofun
  · exact absurd (hv.symm.trans hv') nofun
  · omega
  · exact ht

/-! One segment with a declared length. -/

section
variable {n d : Nat} {w : Walk}

theorem segAt_offset_toNat (hn : n < 2 ^ 64) (hw : w.off ≤ n) : (segAt n w d).offset.toNat = w.off := by
  rw [segAt, segDescOf_offset, BitVec.toNat_ofNat]
  exact Nat.mod_eq_of_lt (by omega)

theorem segAt_length_toNat (hd : d < 2 ^ 64) : (segAt n w d).length.toNat = d := by
  rw [segAt, segDescOf_length, BitVec.toNat_ofNat]
  exact Nat.mod_eq_of_lt hd

@[simp] theorem segAt_present : (segAt n w d).present = segFits n w d := rfl

/-- The walk's step is R142's, as numbers: nothing wraps in 64 bits (42_layout.md R150). -/
theorem segAt_segStep (hn : n < 2 ^ 64) (hw : w.off ≤ n) (hd : d < 2 ^ 64) :
    SegStep n w.off w.trunc d (segAt n w d) (walkPast n w d).off (walkPast n w d).trunc := by
  refine ⟨segAt_offset_toNat hn hw, segAt_length_toNat hd, ?_⟩
  rw [segAt_present]
  obtain ⟨h0, hpast, hfit⟩ | ⟨h0, ht, hpast, hfit⟩ | ⟨h0, ht, hle, hpast, hfit⟩ | ⟨h0, ht, hlt, hpast, hfit⟩ :=
    walkPast_cases n w d
  · rw [if_pos h0, hpast]; exact ⟨hfit, rfl, rfl⟩
  · simp [h0, ht, hpast, hfit]
  · simp [h0, ht, hle, hpast, hfit]
  · simp [h0, ht, Nat.not_le.2 hlt, hpast, hfit]

end

/-- A segment with a length and absent: declared, and the file too short for it or for one before it (42_layout.md
R146). -/
def Short (d : SegDesc) : Prop := d.length.toNat ≠ 0 ∧ d.present = false

theorem presentLength_of_present {d : SegDesc} (h : d.present = true) : presentLength d = d.length.toNat := if_pos h

theorem presentLength_of_absent {d : SegDesc} (h : d.present = false) : presentLength d = 0 := by
  simp [presentLength, h]

/-! What R142's step says of offsets, of presence and of the flag, whichever way it goes. -/

section
variable {n off off' declared : Nat} {b b' : Bool} {d : SegDesc}

/-- A step either takes the segment, or leaves the offset and sets the flag when the segment has a length. -/
theorem segStep_cases (h : SegStep n off b declared d off' b') :
    (d.present = true ∧ 0 < d.length.toNat ∧ b = false ∧ off' = off + d.length.toNat ∧ b' = false) ∨
      (d.present = false ∧ off' = off ∧ (b' = true ↔ b = true ∨ d.length.toNat ≠ 0)) := by
  obtain ⟨-, rfl, h⟩ := h
  split_ifs at h with h0 hb hfit
  all_goals obtain ⟨hp, hoff, hb'⟩ := h
  · exact .inr ⟨hp, hoff, by simp [hb', h0]⟩
  · exact .inr ⟨hp, hoff, by simp [hb', hb]⟩
  · exact .inl ⟨hp, Nat.pos_of_ne_zero h0, Bool.eq_false_of_not_eq_true hb, hoff, hb'⟩
  · exact .inr ⟨hp, hoff, by simp [hb', h0]⟩

/-- The offset moves by the length of a present segment and by nothing else. -/
theorem segStep_off (h : SegStep n off b declared d off' b') : off' = off + presentLength d := by
  obtain ⟨hp, -, -, hoff, -⟩ | ⟨hp, hoff, -⟩ := segStep_cases h
  · rw [hoff, presentLength_of_present hp]
  · rw [hoff, presentLength_of_absent hp, Nat.add_zero]

/-- The flag is passed on, and set by a short segment. -/
theorem segStep_trunc_iff (h : SegStep n off b declared d off' b') : b' = true ↔ b = true ∨ Short d := by
  obtain ⟨hp, -, hb, -, hb'⟩ | ⟨hp, -, hb'⟩ := segStep_cases h
  · simp [hb, hb', Short, hp]
  · simp [hb', Short, hp]

/-- A present segment is not empty, and no segment before it was short. -/
theorem segStep_of_present (h : SegStep n off b declared d off' b') (hp : d.present = true) :
    0 < d.length.toNat ∧ b = false := by
  obtain ⟨-, hpos, hb, -⟩ | ⟨habsent, -⟩ := segStep_cases h
  · exact ⟨hpos, hb⟩
  · exact absurd (hp.symm.trans habsent) nofun

end

/-! Miscellaneous (42_layout.md R147). -/

/-- What Miscellaneous has for a declared length: the remainder, or nothing after a short segment. -/
def miscLength (n : Nat) (w : Walk) : Nat := if w.trunc = true then 0 else n - w.off

section
variable {n : Nat} {w : Walk}

theorem miscLength_le (n : Nat) (w : Walk) : miscLength n w ≤ n := by
  unfold miscLength
  split
  · exact Nat.zero_le n
  · exact Nat.sub_le n w.off

/-- Miscellaneous is the fit test's segment of what remains. -/
theorem segMisc_eq_segAt (n : Nat) (w : Walk) : segMisc n w = segAt n w (miscLength n w) := by
  cases ht : w.trunc
  · by_cases hrem : n - w.off = 0
    · simp [segMisc, segAt, segFits, miscLength, ht, hrem]
    · simp [segMisc, segAt, segFits, miscLength, ht, hrem, bne_iff_ne.2 hrem]
  · simp [segMisc, segAt, segFits, miscLength, ht]

theorem segMisc_offset_toNat (hn : n < 2 ^ 64) (hw : w.off ≤ n) : (segMisc n w).offset.toNat = w.off := by
  rw [segMisc_eq_segAt, segAt_offset_toNat hn hw]

/-- R147's two outcomes, as numbers. -/
theorem segMisc_length_present (hn : n < 2 ^ 64) :
    if w.trunc = false ∧ n - w.off ≠ 0 then
      (segMisc n w).length.toNat = n - w.off ∧ (segMisc n w).present = true
    else (segMisc n w).length.toNat = 0 ∧ (segMisc n w).present = false := by
  have hlength := segAt_length_toNat (w := w) (n := n) (Nat.lt_of_le_of_lt (miscLength_le n w) hn)
  rw [segMisc_eq_segAt, hlength]
  cases ht : w.trunc
  · by_cases hrem : n - w.off = 0
    · simp [segFits, miscLength, ht, hrem]
    · simp [segFits, miscLength, ht, hrem]
  · simp [segFits, miscLength, ht]

/-- The walk past what remains ends where the file ends. -/
theorem walkPast_misc_off (hw : w.off ≤ n) (ht : w.trunc = false) : (walkPast n w (miscLength n w)).off = n := by
  have hrem : miscLength n w = n - w.off := if_neg (by simp [ht])
  obtain ⟨h0, hpast, -⟩ | ⟨-, ht', -⟩ | ⟨-, -, -, hpast, -⟩ | ⟨-, -, hlt, -⟩ := walkPast_cases n w (miscLength n w)
  · rw [hpast]; omega
  · exact absurd (ht.symm.trans ht') nofun
  · rw [hpast]; exact hrem ▸ Nat.add_sub_cancel' hw
  · omega

end

/-- 512 or 0 (42_layout.md R143). -/
theorem trainerDeclared_lt (i : Info) : trainerDeclared i < 2 ^ 64 := by
  unfold trainerDeclared
  split <;> decide

/-- Settles O21: the two checks, and then `layoutSegments`, whose three steps are `segAt_segStep` at the offsets of
`walk_offsets`. -/
theorem layoutWalksSegments : Obligations.LayoutWalksSegments := by
  refine ⟨rfl, fun s he => ⟨exec_layout_noInfo he, exec_layout_short he, fun hv hlen ⟨hwf, hbytes⟩ => ?_⟩⟩
  have hn := s.fileLen.isLt
  obtain ⟨-, htrainer, hprg, hchr⟩ := walk_offsets s.info s.fileLen.toNat hlen
  have hstep1 := segAt_segStep (w := walkHeader) hn hlen (trainerDeclared_lt s.info)
  have hstep2 := segAt_segStep hn (htrainer.trans (hprg.trans hchr)) s.info.prgSize.isLt
  have hstep3 := segAt_segStep hn (hprg.trans hchr) s.info.chrSize.isLt
  exact ⟨layoutSegments s, _, _, _, _, _, _, exec_layout_run he hv hlen (imgFilled_of_read hwf hbytes), rfl, hstep1,
    hstep2, hstep3, segMisc_offset_toNat hn hchr, segMisc_length_present hn, rfl, rfl, rfl, rfl, rfl, fun _ => rfl, rfl,
    rfl, rfl, rfl⟩

/-! ### The walk as one step taken five times

The Header passes the fit test of R142 too (42_layout.md R141), and Miscellaneous is the step of what remains (R147), so
the properties of R151 are inductions over the segment's number. -/

/-- The length the step for segment `k` is given; past Miscellaneous the walk stands still. -/
def stepLength (i : Info) (n k : Nat) : Nat :=
  match k with
  | 0 => headerLen
  | 1 => trainerDeclared i
  | 2 => i.prgSize.toNat
  | 3 => i.chrSize.toNat
  | 4 => miscLength n (walkChr i n)
  | _ => 0

/-- The walk as it reaches segment `k`. -/
def walkAt (i : Info) (n : Nat) : Nat → Walk
  | 0 => { off := 0, trunc := false }
  | k + 1 => walkPast n (walkAt i n k) (stepLength i n k)

/-- The descriptor of segment `k`. -/
def descAt (i : Info) (n k : Nat) : SegDesc := segAt n (walkAt i n k) (stepLength i n k)

section
variable {i : Info} {n : Nat}

section
variable (hlen : 16 ≤ n)
include hlen

/-- The fit test would pass the Header (42_layout.md R141). -/
theorem walkAt_one : walkAt i n 1 = walkHeader := by
  simp [walkAt, walkPast, stepLength, walkHeader, headerLen_eq, hlen]

theorem walkAt_two : walkAt i n 2 = walkTrainer i n := by rw [walkAt, walkAt_one hlen]; rfl
theorem walkAt_three : walkAt i n 3 = walkPrg i n := by rw [walkAt, walkAt_two hlen]; rfl
theorem walkAt_four : walkAt i n 4 = walkChr i n := by rw [walkAt, walkAt_three hlen]; rfl

/-- What LAYOUT writes in SEG is the walk's descriptors, one by one. -/
theorem segmentWalk_seg (k : Fin 5) : (segmentWalk i n).seg[k] = descAt i n k := by
  match k with
  | 0 => simp [descAt, segAt, segFits, walkAt, stepLength, headerLen_eq, hlen]
  | 1 => exact congrArg (segAt n · (trainerDeclared i)) (walkAt_one (i := i) hlen).symm
  | 2 => exact congrArg (segAt n · i.prgSize.toNat) (walkAt_two hlen).symm
  | 3 => exact congrArg (segAt n · i.chrSize.toNat) (walkAt_three hlen).symm
  | 4 =>
    exact (segMisc_eq_segAt n _).trans (congrArg (segAt n · (miscLength n (walkChr i n))) (walkAt_four hlen).symm)

/-- The Header is always present (42_layout.md R141). -/
theorem not_short_header : ¬ Short (descAt i n 0) := fun hshort =>
  absurd ((segmentWalk_seg hlen 0).symm ▸ hshort.2 : (segmentWalk i n).seg[(0 : Fin 5)].present = false) nofun

end

theorem walkAt_off_le (k : Nat) : (walkAt i n k).off ≤ n := by
  induction k with
  | zero => exact Nat.zero_le n
  | succ k ih => exact (walkPast_off n _ _ ih).2

/-- Offsets never fall (42_layout.md R151 a). -/
theorem walkAt_off_mono : Monotone fun k => (walkAt i n k).off :=
  monotone_nat_of_le_succ fun k => (walkPast_off n _ _ (walkAt_off_le k)).1

/-- Whatever Miscellaneous finds is taken, so a walk without a short segment ends where the file ends (42_layout.md
R147). -/
theorem walkAt_five_off (hlen : 16 ≤ n) (ht : (walkAt i n 4).trunc = false) : (walkAt i n 5).off = n := by
  rw [walkAt, stepLength, ← walkAt_four hlen]
  exact walkPast_misc_off (walkAt_off_le 4) ht

section
variable (hn : n < 2 ^ 64)
include hn

theorem stepLength_lt (k : Nat) : stepLength i n k < 2 ^ 64 := by
  match k with
  | 0 => exact (by decide : headerLen < 2 ^ 64)
  | 1 => exact trainerDeclared_lt i
  | 2 => exact i.prgSize.isLt
  | 3 => exact i.chrSize.isLt
  | 4 => exact Nat.lt_of_le_of_lt (miscLength_le _ _) hn
  | _ + 5 => exact Nat.two_pow_pos 64

theorem walkAt_segStep (k : Nat) :
    SegStep n (walkAt i n k).off (walkAt i n k).trunc (stepLength i n k) (descAt i n k) (walkAt i n (k + 1)).off
      (walkAt i n (k + 1)).trunc :=
  segAt_segStep hn (walkAt_off_le k) (stepLength_lt hn k)

theorem descAt_offset (k : Nat) : (descAt i n k).offset.toNat = (walkAt i n k).off :=
  (walkAt_segStep hn k).1

theorem walkAt_succ_off (k : Nat) : (walkAt i n (k + 1)).off = (walkAt i n k).off + presentLength (descAt i n k) :=
  segStep_off (walkAt_segStep hn k)

/-- A present segment ends where the walk goes on. -/
theorem descAt_end {k : Nat} (hp : (descAt i n k).present = true) :
    (descAt i n k).offset.toNat + (descAt i n k).length.toNat = (walkAt i n (k + 1)).off := by
  rw [walkAt_succ_off hn, presentLength_of_present hp, descAt_offset hn]

/-- Over absent segments the walk stands still. -/
theorem walkAt_off_of_absent {j k : Nat} (hjk : j ≤ k)
    (habsent : ∀ m, j ≤ m → m < k → (descAt i n m).present = false) : (walkAt i n k).off = (walkAt i n j).off := by
  induction k, hjk using Nat.le_induction with
  | base => rfl
  | succ k hjk ih =>
    rw [walkAt_succ_off hn, presentLength_of_absent (habsent k hjk (Nat.lt_succ_self k)), Nat.add_zero]
    exact ih fun m hjm hmk => habsent m hjm (Nat.lt_succ_of_lt hmk)

/-- The flag is set exactly after a short segment (42_layout.md R146). -/
theorem walkAt_trunc_iff (k : Nat) : (walkAt i n k).trunc = true ↔ ∃ m < k, Short (descAt i n m) := by
  induction k with
  | zero => simp [walkAt]
  | succ k ih => rw [segStep_trunc_iff (walkAt_segStep hn k), ih, Nat.exists_lt_succ_right]

/-- A short segment leaves every later one absent (42_layout.md R151 d). -/
theorem descAt_absent_of_short {m k : Nat} (hmk : m < k) (hshort : Short (descAt i n m)) :
    (descAt i n k).present = false := by
  have ht := (walkAt_trunc_iff hn k).2 ⟨m, hmk, hshort⟩
  exact Bool.eq_false_of_not_eq_true fun hp =>
    absurd (ht.symm.trans (segStep_of_present (walkAt_segStep hn k) hp).2) nofun

/-- An earlier segment ends at or before the offset of a later one (42_layout.md R151 b). -/
theorem descAt_end_le {j k : Nat} (hjk : j < k) (hp : (descAt i n j).present = true) :
    (descAt i n j).offset.toNat + (descAt i n j).length.toNat ≤ (descAt i n k).offset.toNat := by
  rw [descAt_end hn hp, descAt_offset hn]
  exact walkAt_off_mono hjk

/-- It ends at that offset when no segment between is present (42_layout.md R151 b). -/
theorem descAt_end_eq {j k : Nat} (hjk : j < k) (hp : (descAt i n j).present = true)
    (habsent : ∀ m, j < m → m < k → (descAt i n m).present = false) :
    (descAt i n j).offset.toNat + (descAt i n j).length.toNat = (descAt i n k).offset.toNat := by
  rw [descAt_end hn hp, descAt_offset hn]
  exact (walkAt_off_of_absent hn hjk habsent).symm

theorem descAt_end_le_file {k : Nat} (hp : (descAt i n k).present = true) :
    (descAt i n k).offset.toNat + (descAt i n k).length.toNat ≤ n :=
  (descAt_end hn hp).trans_le (walkAt_off_le (k + 1))

/-- The running offset is the sum of the present lengths so far (42_layout.md R151 c). -/
theorem walkAt_off_eq_sum (k : Nat) : (walkAt i n k).off = ∑ m ∈ Finset.range k, presentLength (descAt i n m) := by
  induction k with
  | zero => rfl
  | succ k ih => rw [walkAt_succ_off hn, ih, Finset.sum_range_succ]

/-- The walk ends at the sum of the present lengths in SEG. -/
theorem sum_presentLength (hlen : 16 ≤ n) :
    presentLength (segmentWalk i n).seg[0] + presentLength (segmentWalk i n).seg[1] +
      presentLength (segmentWalk i n).seg[2] + presentLength (segmentWalk i n).seg[3] +
      presentLength (segmentWalk i n).seg[4] = (walkAt i n 5).off := by
  calc
    _ = ∑ k : Fin 5, presentLength (segmentWalk i n).seg[k] :=
      (Fin.sum_univ_five fun k => presentLength (segmentWalk i n).seg[k]).symm
    _ = ∑ k : Fin 5, presentLength (descAt i n k) :=
      Finset.sum_congr rfl fun k _ => congrArg presentLength (segmentWalk_seg hlen k)
    _ = ∑ k ∈ Finset.range 5, presentLength (descAt i n k) :=
      Fin.sum_univ_eq_sum_range (fun m => presentLength (descAt i n m)) 5
    _ = (walkAt i n 5).off := (walkAt_off_eq_sum hn 5).symm

end
end

/-- Settles O22: the properties of the walk's descriptors and flag; the Header is never the short segment. -/
theorem layoutOrderAndTruncation : Obligations.LayoutOrderAndTruncation := by
  intro s t he hv hlen h
  obtain rfl := exec_layout_completed he hv hlen h
  have hn := s.fileLen.isLt
  simp only [layoutSegments_seg, segmentWalk_seg hlen, layoutSegments_status, Status.afterLayout_trunc]
  refine ⟨fun i j hij => ?offsets, fun i hp => ?nonempty, ?trunc, fun i j _ _ hij hlength habsent => ?propagates⟩
  case offsets =>
    rw [descAt_offset hn, descAt_offset hn]
    exact walkAt_off_mono hij
  case nonempty => exact (segStep_of_present (walkAt_segStep hn i) hp).1
  case trunc =>
    rw [segmentWalk_trunc, ← walkAt_four hlen, walkAt_trunc_iff hn]
    constructor
    · rintro ⟨m, hm, hshort⟩
      have hm0 : m ≠ 0 := fun h0 => not_short_header hlen (h0 ▸ hshort)
      exact ⟨⟨m, by omega⟩, Nat.pos_of_ne_zero hm0, Nat.le_of_lt_succ hm, hshort⟩
    · rintro ⟨m, -, hm, hshort⟩
      exact ⟨m, Nat.lt_succ_of_le hm, hshort⟩
  case propagates => exact descAt_absent_of_short hn hij ⟨hlength, habsent⟩

/-- Settles O23: each present segment ends where the walk goes on, and the walk ends at the sum of the present
lengths. -/
theorem layoutSegmentsTileTheFile : Obligations.LayoutSegmentsTileTheFile := by
  intro s t he hv hlen h
  obtain rfl := exec_layout_completed he hv hlen h
  have hn := s.fileLen.isLt
  simp only [layoutSegments_seg, sum_presentLength hn hlen, segmentWalk_seg hlen, layoutSegments_status,
    Status.afterLayout_trunc]
  refine ⟨fun i j hij hp _ => descAt_end_le hn hij hp, fun i j hij hp _ habsent => ?contiguous,
    fun i hp => descAt_end_le_file hn hp, walkAt_off_le 5, fun ht => ?whole⟩
  case contiguous => exact descAt_end_eq hn hij hp fun m him hmj => habsent ⟨m, by omega⟩ him hmj
  case whole =>
    rw [segmentWalk_trunc, ← walkAt_four hlen] at ht
    exact walkAt_five_off hlen ht

end Sys2Proof.Machine

namespace Sys2Proof.Machine

/-! ### FOOTER and RESOLVE (43_footer.md) -/

/-! The validity of a candidate (43_footer.md R164 to R166). -/

/-- The window of ten bytes, byte by byte (43_footer.md R165). -/
theorem footerAllZero_iff (F : FooterBytes) :
    footerAllZero F = true ↔ ∀ k : Fin 26, 0x10 ≤ k.val → F[k] = 0 := by
  simp only [footerAllZero, List.all_eq_true, beq_iff_eq, List.mem_drop_iff_getElem]
  constructor
  · intro h k hk
    exact h _ ⟨k.val - 0x10, by rw [Vector.length_toList]; omega, by simp [Nat.add_sub_cancel' hk]⟩
  · rintro h x ⟨j, hj, rfl⟩
    rw [Vector.length_toList] at hj
    exact h ⟨0x10 + j, by omega⟩ (Nat.le_add_right _ _)

/-- Settles O24: the sum of R164, and the window of R165 negated. -/
theorem footerValidity : Obligations.FooterValidity := by
  intro F
  have hwindow : footerAllZero F = false ↔ ∃ k : Fin 26, 0x10 ≤ k.val ∧ F[k] ≠ 0 := by
    rw [← Bool.not_eq_true, footerAllZero_iff]
    simp only [not_forall, exists_prop, ne_eq]
  rw [footerValid, Bool.and_eq_true, beq_iff_eq, Bool.not_eq_true', hwindow]
  rfl

/-! The footer's sizes (43_footer.md R173, R174; 30_encoding.md R72). -/

/-- The table of R72 in bytes. -/
def sizeTable : List Nat := [8192, 16384, 32768, 131072, 262144, 524288, 1048576, 2097152]

theorem sizeTableKiB_bytes : ∀ idx : BitVec 3, sizeTableKiB idx * 1024 = sizeTable.getD idx.toNat 0 := by decide

/-- The entry that the overrides replace is index 0 alone. -/
theorem sizeTableKiB_eq_eight : ∀ idx : BitVec 3, sizeTableKiB idx = 8 ↔ idx = 0 := by decide

/-- Either size is the table's entry in bytes, or 64 KiB where the override applies. -/
theorem overridden_size (idx : BitVec 3) (p : Prop) [Decidable p] :
    (if sizeTableKiB idx = 8 ∧ p then 64 else sizeTableKiB idx) * 1024 =
      if idx = 0 ∧ p then 65536 else sizeTable.getD idx.toNat 0 := by
  simp only [sizeTableKiB_eq_eight, ite_mul, sizeTableKiB_bytes]

/-- Settles O25: both sizes are `overridden_size`, each under its own condition. -/
theorem footerSizeOverrides : Obligations.FooterSizeOverrides := fun idx _ _ =>
  ⟨overridden_size idx _, overridden_size idx _⟩

/-- The nine values a size register can take (43_footer.md R179 d). -/
def footerSizes : List Nat := [8192, 16384, 32768, 65536, 131072, 262144, 524288, 1048576, 2097152]

theorem overridden_size_mem (idx : BitVec 3) (p : Prop) [Decidable p] :
    (if sizeTableKiB idx = 8 ∧ p then 64 else sizeTableKiB idx) * 1024 ∈ footerSizes := by
  have hentry : ∀ idx : BitVec 3, sizeTableKiB idx * 1024 ∈ footerSizes := by decide
  split
  · decide
  · exact hentry idx

theorem footerPrgSize_mem (idx : BitVec 3) (mapper : Nat) : footerPrgSize idx mapper ∈ footerSizes :=
  overridden_size_mem idx _

theorem footerChrSize_mem (idx : BitVec 3) (mapper : Nat) (chrRam : Bool) :
    footerChrSize idx mapper chrRam ∈ footerSizes :=
  overridden_size_mem idx _

/-- No size wraps its 32-bit register. -/
theorem ofNat_footerSize_toNat {n : Nat} (h : n ∈ footerSizes) : (BitVec.ofNat 32 n).toNat = n := by
  have hlt : ∀ m ∈ footerSizes, m < 2 ^ 32 := by decide
  rw [BitVec.toNat_ofNat, Nat.mod_eq_of_lt (hlt n h)]

theorem ofNat_footerSize_mem {n : Nat} (h : n ∈ footerSizes) : (BitVec.ofNat 32 n).toNat ∈ footerSizes := by
  rwa [ofNat_footerSize_toNat h]

/-! The title and its length (43_footer.md R169, R170). -/

theorem titleLength_eq_zero {f : Byte} : titleLength f = 0 ↔ f = 0 := by
  unfold titleLength
  split
  case isTrue h => exact iff_of_true rfl h
  case isFalse h => exact iff_of_false (Nat.succ_ne_zero _) h

/-- A title-length byte that is not 0 is at least 1 and counts one more. -/
theorem titleLength_ne_one (f : Byte) : titleLength f ≠ 1 := by
  unfold titleLength
  split
  · decide
  · bv_omega

/-- The title length is above 16 where its byte is 16 or more. -/
theorem titleLength_gt_iff {f : Byte} : 16 < titleLength f ↔ 16 ≤ f.toNat := by
  unfold titleLength
  split
  · bv_omega
  · omega

theorem ofNat_titleLength_toNat {f : Byte} (h : titleLength f ≤ 16) :
    (BitVec.ofNat 8 (titleLength f)).toNat = titleLength f := by
  rw [BitVec.toNat_ofNat, Nat.mod_eq_of_lt (by omega)]

/-- A title byte is the candidate's where the encoding byte is not 0 and the byte is printable, else a space. -/
theorem footerTitle_get (F : FooterBytes) (enc : Byte) (k : Fin 16) : (footerTitle F enc)[k] =
    if enc ≠ 0 ∧ 0x20 ≤ F[k.val].toNat ∧ F[k.val].toNat ≤ 0x5A then F[k.val] else 0x20 := by
  have hget : (footerTitle F enc)[k] = if enc ≠ 0 then sanitise F[k.val] else 0x20 := by simp [footerTitle]
  rw [hget, ite_and, sanitise]

theorem footerTitle_range (F : FooterBytes) (enc : Byte) (k : Fin 16) :
    0x20 ≤ (footerTitle F enc)[k].toNat ∧ (footerTitle F enc)[k].toNat ≤ 0x5A := by
  rw [footerTitle_get]
  split
  case isTrue h => exact h.2
  case isFalse => decide

/-! The two parts of the board byte (30_encoding.md R73). -/

theorem boardMapper_toNat (b : Byte) : (boardMapper b).toNat = b.toNat % 128 := toNat_extractLsb'_low b 7
theorem boardMirroring_toNat (b : Byte) : (boardMirroring b).toNat = b.toNat / 128 := toNat_extractLsb'_high b rfl

theorem boardMapper_register_toNat (b : Byte) : ((boardMapper b).setWidth 8).toNat = b.toNat % 128 := by
  rw [BitVec.toNat_setWidth_of_le (by decide), boardMapper_toNat]

/-- The two parts make up the whole byte. -/
theorem board_eq_zero {b : Byte} (hmapper : (boardMapper b).setWidth 8 = 0) (hmirroring : boardMirroring b = 0) :
    b = 0 := by
  have hlow := boardMapper_register_toNat b
  have hhigh := boardMirroring_toNat b
  rw [hmapper] at hlow
  rw [hmirroring] at hhigh
  bv_omega

/-! Which FTR registers are specified after FOOTER (10_state.md R22, 43_footer.md R168). -/

/-- After a FOOTER that found none only FTR.OFFSET can be specified, and it is where a candidate was looked for. -/
theorem regSpecified_ftr_of_absent {t : State} (hdone : t.status.ftrDone = true) (habsent : t.status.ftrPresent = false)
    (r : FtrReg) : regSpecified t (.ftr r) = true ↔ r = .offset ∧ footerSearched t = true := by
  cases r with
  | offset => simp [regSpecified, hdone]
  | _ => simp [regSpecified, habsent]

/-- Settles O26: FOOTER's body answers `noFooter` before it reads anything. -/
theorem footerNotLookedFor : Obligations.FooterNotLookedFor := by
  intro s he hseg hnot
  have hsearch : footerSearched s = false := by rwa [← Bool.not_eq_true, footerSearched_iff]
  refine ⟨noFooter s, (exec_footer_run he hseg).trans (findFooter_not_searched hsearch), rfl, fun r => ?_, rfl, rfl, rfl,
    rfl, fun _ => rfl, rfl, rfl, rfl⟩
  rw [← Bool.not_eq_true, regSpecified_ftr_of_absent (t := noFooter s) rfl rfl]
  rintro ⟨-, hs⟩
  exact absurd (hsearch.symm.trans hs) nofun

/-! A candidate inside the file (43_footer.md R162, R163). -/

section
variable {s : State}

/-- The candidate's address does not wrap FTR.OFFSET. -/
theorem ofNat_footerCandidate_toNat (hend : s.seg[2].offset.toNat + s.seg[2].length.toNat ≤ s.fileLen.toNat) :
    (BitVec.ofNat 64 (footerCandidate s)).toNat = footerCandidate s := by
  have hlen := s.fileLen.isLt
  rw [BitVec.toNat_ofNat, Nat.mod_eq_of_lt]
  simp only [footerCandidate]
  omega

/-- FOOTER fetches the bytes the host placed at the candidate. -/
theorem memRead_footer {F : FooterBytes} (hrom : 26 ≤ s.seg[2].length.toNat)
    (hend : s.seg[2].offset.toNat + s.seg[2].length.toNat ≤ s.fileLen.toNat) (hF : FooterAt s (footerCandidate s) F) :
    memRead s (footerCandidate s) footerLen = .ok F :=
  memRead_of_read (by rwa [← footerCandidate_end hrom] at hend) hF

end

/-- Settles O27: the fetched candidate does not parse, so FOOTER's body answers `rejectFooter`. -/
theorem footerRejected : Obligations.FooterRejected := by
  intro s F he hseg hpresent hprg hrom hend hF hbad
  have hsearch := (footerSearched_iff s).2 ⟨hpresent, hprg⟩
  have hparse : parseFooter s.config.ftrLayout (footerCandidate s) F = none := by
    rwa [parseFooter_none, titleLength_gt_iff]
  have hrun := (exec_footer_run he hseg).trans (findFooter_rejected hsearch (memRead_footer hrom hend hF) hparse)
  refine ⟨_, hrun, rfl, ofNat_footerCandidate_toNat hend, fun r => ?_, rfl, rfl, rfl, rfl, fun _ => rfl, rfl, rfl, rfl⟩
  exact (regSpecified_ftr_of_absent (t := rejectFooter s (footerCandidate s)) rfl rfl r).trans (and_iff_left hsearch)

/-- A valid candidate whose title fits parses to its fields (43_footer.md R177). -/
theorem parseFooter_of_valid {l : FtrLayout} {F : FooterBytes} (c : Nat) (hvalid : footerValid F = true)
    (htitle : titleLength F[l.tlen] ≤ 16) : parseFooter l c F = some (footerFields l c F) := by
  cases hparse : parseFooter l c F with
  | none =>
    obtain hinvalid | hlong := parseFooter_none.1 hparse
    · exact absurd (hvalid.symm.trans hinvalid) nofun
    · omega
  | some f =>
    obtain ⟨-, -, rfl⟩ := parseFooter_some hparse
    rfl

/-- Settles O28: the fetched candidate parses to `footerFields`, whose registers are read off one by one. -/
theorem footerAccepted : Obligations.FooterAccepted := by
  intro s F l he hseg hpresent hprg hrom hend hF hvalid hlen
  have htitle : titleLength F[l.tlen] ≤ 16 := by
    rw [← Nat.not_lt, titleLength_gt_iff]
    omega
  have hrun := (exec_footer_run he hseg).trans (findFooter_accepted ((footerSearched_iff s).2 ⟨hpresent, hprg⟩)
    (memRead_footer hrom hend hF) (parseFooter_of_valid _ hvalid htitle))
  refine ⟨_, hrun, rfl, ofNat_footerCandidate_toNat hend, footerTitle_get F F[l.enc], ofNat_titleLength_toNat htitle, rfl,
    rfl, rfl, rfl, rfl, rfl, rfl, boardMirroring_toNat F[l.board], boardMapper_register_toNat F[l.board], ?prgSize,
    ?chrSize, rfl, rfl, rfl, rfl, rfl, rfl, fun _ => rfl, rfl, rfl, rfl, rfl⟩
  case prgSize =>
    rw [← boardMapper_toNat]
    exact ofNat_footerSize_toNat (footerPrgSize_mem _ _)
  case chrSize =>
    rw [← boardMapper_toNat]
    exact ofNat_footerSize_toNat (footerChrSize_mem _ _ _)

/-! What an accepted footer implies (43_footer.md R179). -/

/-- Six different places after the second checksum are all the places there are (30_encoding.md R71). -/
theorem ftrLayout_covers {l : FtrLayout} (hl : l.wellFormed = true) {k : Fin 26} (hk : 0x14 ≤ k.val) :
    k ∈ [l.size, l.board, l.enc, l.tlen, l.maker, l.cksum] := by
  simp only [FtrLayout.wellFormed, Bool.and_eq_true, List.all_eq_true, decide_eq_true_eq] at hl
  obtain ⟨hafter, hnodup⟩ := hl
  have hsub : [l.size, l.board, l.enc, l.tlen, l.maker, l.cksum].toFinset ⊆ Finset.Ici 0x14 := fun j hj =>
    Finset.mem_Ici.2 (hafter j (List.mem_toFinset.1 hj))
  have hcard := List.toFinset_card_of_nodup hnodup
  have hall := Finset.eq_of_subset_of_card_le hsub (hcard ▸ Nat.le_refl 6)
  exact List.mem_toFinset.1 (hall ▸ Finset.mem_Ici.2 hk)

/-- The window is all zero where the four checksum bytes and the six single bytes are (43_footer.md R165). -/
theorem footerAllZero_of_bytes {l : FtrLayout} {F : FooterBytes} (hl : l.wellFormed = true)
    (hsums : F[0x10] = 0 ∧ F[0x11] = 0 ∧ F[0x12] = 0 ∧ F[0x13] = 0)
    (hbytes : ∀ k ∈ [l.size, l.board, l.enc, l.tlen, l.maker, l.cksum], F[k] = 0) : footerAllZero F = true := by
  rw [footerAllZero_iff]
  intro k hk
  by_cases hsum : k.val < 0x14
  · obtain ⟨h0, h1, h2, h3⟩ := hsums
    obtain h | h | h | h : k = 0x10 ∨ k = 0x11 ∨ k = 0x12 ∨ k = 0x13 := by omega
    all_goals subst h; assumption
  · exact hbytes k (ftrLayout_covers hl (Nat.not_lt.1 hsum))

/-- The registers of a valid candidate are not all 0 (43_footer.md R179 b): they hold every bit of the window. -/
theorem footerFields_not_all_zero {l : FtrLayout} {F : FooterBytes} (c : Nat) (hl : l.wellFormed = true)
    (hvalid : footerValid F = true) (htitle : titleLength F[l.tlen] ≤ 16) : let f := footerFields l c F
    ¬ (f.sum1B0 = 0 ∧ f.sum1B1 = 0 ∧ f.sum2B0 = 0 ∧ f.sum2B1 = 0 ∧ f.sizeCode = 0 ∧ f.mapper = 0 ∧ f.mirroring = 0 ∧
      f.titleEnc = 0 ∧ f.titleLen = 0 ∧ f.maker = 0 ∧ f.checksum = 0) := by
  rintro f ⟨h0, h1, h2, h3, hsize, hmapper, hmirroring, henc, htlen, hmaker, hcksum⟩
  have hboard : F[l.board] = 0 := board_eq_zero hmapper hmirroring
  have hlength : F[l.tlen] = 0 :=
    titleLength_eq_zero.1 ((ofNat_titleLength_toNat htitle).symm.trans (congrArg BitVec.toNat htlen))
  have hzero : footerAllZero F = true := footerAllZero_of_bytes hl ⟨h0, h1, h2, h3⟩ <| by
    simp only [List.forall_mem_cons]
    exact ⟨hsize, hboard, henc, hlength, hmaker, hcksum, nofun⟩
  simp [footerValid, hzero] at hvalid

/-- FOOTER's body leaves FTR_PRESENT 1 only where it accepted a candidate. -/
theorem findFooter_present {s t : State} (h : findFooter s = .next t) (hp : t.status.ftrPresent = true) :
    footerSearched s = true ∧ ∃ F, footerValid F = true ∧ titleLength F[s.config.ftrLayout.tlen] ≤ 16 ∧
      t = acceptFooter s (footerFields s.config.ftrLayout (footerCandidate s) F) := by
  obtain ⟨-, rfl⟩ | ⟨hs, F, -, ⟨-, rfl⟩ | ⟨f, hparse, rfl⟩⟩ := findFooter_next h
  · cases hp
  · cases hp
  · obtain ⟨hvalid, htitle, rfl⟩ := parseFooter_some hparse
    exact ⟨hs, F, hvalid, htitle, rfl⟩

/-- FOOTER or RESOLVE without a fault is FOOTER's body, at this state or at the one LAYOUT's body leaves. -/
theorem findFooter_of_exec {s t : State} {i : Instr} (hi : i = .footer ∨ i = .resolve) (he : s.status.err = false)
    (h : exec i s = .next t) (he' : t.status.err = false) :
    ∃ u, u.config = s.config ∧ findFooter u = .next t := by
  obtain rfl | rfl := hi
  · obtain ⟨herr, -⟩ | ⟨-, -, rfl⟩ | ⟨-, -, hf⟩ := exec_footer_next h
    · exact absurd (he.symm.trans herr) nofun
    · cases he'
    · exact ⟨s, rfl, hf⟩
  · obtain ⟨herr, -⟩ | ⟨-, -, rfl⟩ | ⟨-, -, -, rfl⟩ | ⟨-, -, -, -, hf⟩ := exec_resolve_next h
    · exact absurd (he.symm.trans herr) nofun
    · cases he'
    · cases he'
    · exact ⟨layoutSegments s, rfl, hf⟩

/-- Settles O29: FTR_PRESENT means an accepted candidate, and each conclusion is a property of its fields. -/
theorem footerPresentImplies : Obligations.FooterPresentImplies := by
  intro s t i hi hl he h he' hp
  obtain ⟨u, hconfig, hfind⟩ := findFooter_of_exec hi he h he'
  rw [← hconfig] at hl
  obtain ⟨hs, F, hvalid, htitle, rfl⟩ := findFooter_present hfind hp
  obtain ⟨hpresent, hprg⟩ := (footerSearched_iff u).1 hs
  have hlength := ofNat_titleLength_toNat htitle
  refine ⟨hpresent, hprg, hlength.trans_le htitle, fun hone => ?titleLen, footerTitle_range F _,
    ofNat_footerSize_mem (footerPrgSize_mem _ _), ofNat_footerSize_mem (footerChrSize_mem _ _ _),
    footerFields_not_all_zero _ hl hvalid htitle⟩
  case titleLen => exact titleLength_ne_one _ (hlength.symm.trans (congrArg BitVec.toNat hone))

/-! RESOLVE (43_footer.md R180). -/

section
variable {s : State}

/-- RESOLVE before any DECODE raises Sequence (40_control.md R90). -/
theorem exec_resolve_noInfo (he : s.status.err = false) (hv : s.status.infoValid = false) :
    exec .resolve s = .next (raise .sequence s) := by
  simp only [exec, execResolve, unlessErr_of_clear he, needStage_of_invalid hv]

/-- RESOLVE over a file that holds no header raises ShortImage (40_control.md R90). -/
theorem exec_resolve_short (he : s.status.err = false) (hv : s.status.infoValid = true)
    (hlen : s.fileLen.toNat < 16) : exec .resolve s = .next (raise .shortImage s) := by
  simp only [exec, execResolve, unlessErr_of_clear he, needStage_of_valid hv, needImage_of_short hlen]

/-- FOOTER after LAYOUT's body is FOOTER's body: SEG_VALID is 1. -/
theorem exec_footer_layoutSegments (he : s.status.err = false) :
    exec .footer (layoutSegments s) = findFooter (layoutSegments s) :=
  exec_footer_run (s := layoutSegments s) he rfl

/-- Over a filled image RESOLVE is FOOTER after LAYOUT. -/
theorem exec_resolve_eq_footer (he : s.status.err = false) (hv : s.status.infoValid = true)
    (hlen : 16 ≤ s.fileLen.toNat) (hfill : imgFilled s = true) :
    exec .resolve s = exec .footer (layoutSegments s) := by
  rw [exec_resolve_run he hv hlen hfill, exec_footer_layoutSegments he]

end

/-- Settles O30: RESOLVE's body is FOOTER's after LAYOUT's, and over a filled image the candidate is there to read. -/
theorem resolveIsLayoutThenFooter : Obligations.ResolveIsLayoutThenFooter := by
  refine ⟨rfl, fun s he => ⟨exec_resolve_noInfo he, exec_resolve_short he, fun hv hlen u hu => ?equal,
    fun hv hlen ⟨hwf, hbytes⟩ => ?completes⟩⟩
  case equal =>
    cases hfill : imgFilled s with
    | false => rw [exec_layout_unfilled he hv hlen hfill] at hu; cases hu
    | true =>
      obtain rfl := exec_layout_completed he hv hlen hu
      exact exec_resolve_eq_footer he hv hlen hfill
  case completes =>
    have hfill := imgFilled_of_read hwf hbytes
    obtain ⟨t, hfind⟩ := findFooter_of_filled (s := layoutSegments s) hlen hfill rfl
    obtain ⟨hfileLen, hhdr, hinfo, hseg, himg, hport, hrdata, hconfig, p, hstatus⟩ := findFooter_frame hfind
    have hfooter := (exec_footer_layoutSegments he).trans hfind
    refine ⟨layoutSegments s, t, exec_layout_run he hv hlen hfill, hfooter,
      (exec_resolve_eq_footer he hv hlen hfill).trans hfooter, hseg, ?_, hfileLen, hhdr, hinfo,
      fun a => by rw [himg, layoutSegments_img], hport, hrdata, hconfig⟩
    rw [hstatus]
    rfl

end Sys2Proof.Machine

namespace Sys2Proof

/-! ### Legal words (30_encoding.md R57) -/

/-- A word below 7 is a command's encoding. -/
theorem exists_encode_of_lt {c : Byte} (h : c.toNat < 7) : ∃ i, c = encode i := by
  obtain ⟨i, hi⟩ := Option.ne_none_iff_exists'.1 fun hn => Nat.not_le.2 h (decode?_eq_none_iff_le.1 hn)
  exact ⟨i, eq_encode_of_decode (decode?_eq_some.1 hi)⟩

end Sys2Proof

namespace Sys2Proof.Machine

/-! ### The checks of a command, in their order (40_control.md R90, 60_exceptions.md R195 to R197) -/

/-- The stage a command takes its input from is valid; NOP, CLR and LDHDR take none (60_exceptions.md R195). -/
def inputValid (s : State) (i : Instr) : Bool :=
  match i with
  | .decode => s.status.hdrValid
  | .layout | .resolve => s.status.infoValid
  | .footer => s.status.segValid
  | .nop | .clr | .ldhdr => true

/-- The commands that need a file of sixteen bytes (60_exceptions.md R196). -/
def NeedsImage (i : Instr) : Prop := i = .ldhdr ∨ i = .layout ∨ i = .resolve

/-- R195's table, by the words of the commands. -/
theorem encode_inputMissing_iff (s : State) (i : Instr) :
    (encode i = 0x02 ∧ s.status.hdrValid = false ∨ (encode i = 0x03 ∨ encode i = 0x05) ∧ s.status.infoValid = false ∨
      encode i = 0x04 ∧ s.status.segValid = false) ↔ inputValid s i = false := by
  cases i <;> simp [encode, inputValid]

/-- R196's commands, by their words. -/
theorem encode_needsImage_iff (i : Instr) :
    (encode i = 0x01 ∨ encode i = 0x03 ∨ encode i = 0x05) ↔ NeedsImage i := by
  cases i <;> simp [encode, NeedsImage]

section
variable {s t : State} {i : Instr}

/-- FOOTER before any LAYOUT raises Sequence (40_control.md R90). -/
theorem exec_footer_noSeg (he : s.status.err = false) (hv : s.status.segValid = false) :
    exec .footer s = .next (raise .sequence s) := by
  simp only [exec, execFooter, unlessErr_of_clear he, needStage_of_invalid hv]

/-- FOOTER's body leaves ERR alone (43_footer.md R160). -/
theorem findFooter_err (h : findFooter s = .next t) : t.status.err = s.status.err := by
  obtain ⟨-, -, -, -, -, -, -, -, p, hstatus⟩ := findFooter_frame h
  rw [hstatus, Status.afterFooter_err]

/-- A command whose input stage is not valid raises Sequence, whatever FILE_LEN is. -/
theorem exec_sequence (he : s.status.err = false) (hv : inputValid s i = false) :
    exec i s = .next (raise .sequence s) := by
  cases i with
  | nop | clr | ldhdr => cases hv
  | decode => exact exec_decode_noHeader he hv
  | layout => exact exec_layout_noInfo he hv
  | resolve => exact exec_resolve_noInfo he hv
  | footer => exact exec_footer_noSeg he hv

/-- A command whose input stage is valid raises ShortImage over a file that holds no header. -/
theorem exec_shortImage (he : s.status.err = false) (hv : inputValid s i = true) (hi : NeedsImage i)
    (hlen : s.fileLen.toNat < 16) : exec i s = .next (raise .shortImage s) := by
  obtain rfl | rfl | rfl := hi
  · exact exec_ldhdr_short he hlen
  · exact exec_layout_short he hv hlen
  · exact exec_resolve_short he hv hlen

/-- A command that passes both checks records no fault. -/
theorem exec_err_of_checked (he : s.status.err = false) (hv : inputValid s i = true)
    (hshort : ¬ (NeedsImage i ∧ s.fileLen.toNat < 16)) (h : exec i s = .next t) : t.status.err = false := by
  have hlen (hi : NeedsImage i) : 16 ≤ s.fileLen.toNat := Nat.not_lt.1 fun hl => hshort ⟨hi, hl⟩
  cases i with
  | nop => rw [exec_nop] at h; cases h; exact he
  | clr => rw [exec_clr] at h; cases h; rfl
  | ldhdr =>
    obtain ⟨he', -⟩ | ⟨-, hl, -⟩ | ⟨-, -, -, v, -, rfl⟩ := exec_ldhdr_next h
    · exact absurd (he.symm.trans he') nofun
    · exact absurd hl (Nat.not_lt.2 (hlen (.inl rfl)))
    · exact he
  | decode => rw [exec_decode_run he hv] at h; cases h; exact he
  | layout => obtain rfl := exec_layout_completed he hv (hlen (.inr (.inl rfl))) h; exact he
  | footer => rw [exec_footer_run he hv] at h; exact (findFooter_err h).trans he
  | resolve =>
    have hl := hlen (.inr (.inr rfl))
    cases hf : imgFilled s with
    | false => rw [exec_resolve_unfilled he hv hl hf] at h; cases h
    | true => rw [exec_resolve_run he hv hl hf] at h; exact (findFooter_err h).trans he

end

/-! ### What a command word does, by ERR (60_exceptions.md R192, R194) -/

section
variable {s : State} {c : Byte}

theorem runWord_encode (i : Instr) (s : State) : runWord (encode i) s = exec i s := runWord_legal (decode?_encode i) s

theorem runWord_clr (s : State) : runWord 0x06 s = .next (clearBlock s) := runWord_encode .clr s

/-- A reserved word raises IllegalCommand before any other check. -/
theorem runWord_illegal_raises (he : s.status.err = false) (hc : decode? c = none) :
    runWord c s = .next (raise .illegalCommand s) := by
  rw [runWord_illegal hc, execIllegal, unlessErr_of_clear he]

/-- While ERR is 1 every word but CLR's is ignored, legal or not. -/
theorem runWord_of_err (he : s.status.err = true) (hc : c ≠ 0x06) : runWord c s = .next s := by
  cases hd : decode? c with
  | none => rw [runWord_illegal hd, execIllegal, unlessErr_of_err he]
  | some i =>
    have hi : i ≠ .clr := by
      rintro rfl
      exact hc (eq_encode_of_decode (decode?_eq_some.1 hd))
    rw [runWord_legal hd, exec_of_err he hi]

end

/-- The host's write of a register leaves ERR and ERRCODE alone (10_state.md R17). -/
theorem hostWrite_err_errCode (s : State) (no : BitVec 8) (data : BitVec 64) :
    (hostWrite s no data).status.err = s.status.err ∧ (hostWrite s no data).status.errCode = s.status.errCode := by
  unfold hostWrite
  split <;> exact ⟨rfl, rfl⟩

/-- Settles O34: a word that records a fault fails one of the checks, and a failed check answers `raise`. -/
theorem faultsArePrecise : Obligations.FaultsArePrecise := by
  intro s t c he h ht
  have raised_of {f : BlockFault} (hf : runWord c s = .next (raise f s)) : ∃ f : BlockFault, t = raise f s :=
    ⟨f, Host.Outcome.next.inj (h.symm.trans hf)⟩
  obtain hc | hc := Nat.lt_or_ge c.toNat 7
  · obtain ⟨i, rfl⟩ := exists_encode_of_lt hc
    rw [runWord_encode] at h raised_of
    cases hv : inputValid s i with
    | false => exact raised_of (exec_sequence he hv)
    | true =>
      by_cases hs : NeedsImage i ∧ s.fileLen.toNat < 16
      · exact raised_of (exec_shortImage he hv hs.1 hs.2)
      · exact absurd ht (Bool.eq_false_iff.1 (exec_err_of_checked he hv hs h))
  · exact raised_of (runWord_illegal_raises he (decode?_eq_none_iff_le.2 hc))

/-- Settles O35: the checks one after the other, each with what the ones before it have made sure of. -/
theorem faultPriority : Obligations.FaultPriority := by
  intro s t c h stageMissing tooShort raised
  have answer {u : State} (hu : runWord c s = .next u) : t = u := Host.Outcome.next.inj (h.symm.trans hu)
  refine ⟨fun he hc => answer (runWord_of_err he hc), ?clr,
    fun he hc => answer (runWord_illegal_raises he (decode?_eq_none_iff_le.2 hc)), ?sequence, ?shortImage, ?noFault⟩
  case clr =>
    rintro - rfl
    rw [answer (runWord_clr s)]
    rfl
  all_goals
    intro he hc
    obtain ⟨i, rfl⟩ := exists_encode_of_lt hc
    rw [runWord_encode] at h answer
    simp only [stageMissing, tooShort, encode_inputMissing_iff, encode_needsImage_iff, Bool.not_eq_false]
  case sequence => exact fun hv => answer (exec_sequence he hv)
  case shortImage => exact fun hv ⟨hi, hlen⟩ => answer (exec_shortImage he hv hi hlen)
  case noFault => exact fun hv hshort => exec_err_of_checked he hv hshort h

/-- Settles O36: the check of ERR comes first in every word but CLR's, and no other transaction looks at ERR. -/
theorem faultIsSticky : Obligations.FaultIsSticky := by
  intro s he
  refine ⟨fun c hc => runWord_of_err he hc, fun r hr => ⟨_, runTxn_readReg _ s, ?_⟩, fun v => runTxn_writeFileLen v s,
    ⟨_, runWord_clr s, rfl, rfl⟩, fun tx t h => ?_⟩
  · rw [hostRead_rdata, readRegData_regNumber, if_pos hr]
  · cases tx with
    | readReg no => cases h; exact .inl ⟨he, rfl⟩
    | imgPlace addr bytes => obtain ⟨-, rfl⟩ := hostPlace_next h; exact .inl ⟨he, rfl⟩
    | reset => cases h; exact .inr ⟨rfl, .inl rfl⟩
    | writeReg no data =>
      by_cases hno : no = 0x01
      · subst hno
        rw [runTxn_writeCmd] at h
        by_cases hc : data.setWidth 8 = (0x06 : Byte)
        · rw [hc, runWord_clr] at h; cases h; exact .inr ⟨rfl, .inr ⟨data, rfl, hc⟩⟩
        · rw [runWord_of_err he hc] at h; cases h; exact .inl ⟨he, rfl⟩
      · rw [runTxn_writeReg_of_ne_cmd hno] at h
        cases h
        obtain ⟨herr, hcode⟩ := hostWrite_err_errCode s no data
        exact .inl ⟨herr.trans he, hcode⟩

/-- Settles O31: such a word decodes to no command. -/
theorem illegalWordRaises : Obligations.IllegalWordRaises := fun _ _ he hc =>
  runWord_illegal_raises he <| decode?_eq_none.2 <|
    hc.imp_right fun hop => instrOfOp_eq_none.2 (congrArg BitVec.toNat hop)

/-- Settles O32: each row is the check of the command's input stage. -/
theorem sequenceRaised : Obligations.SequenceRaised := fun _ he =>
  ⟨exec_sequence (i := .decode) he, exec_sequence (i := .layout) he, exec_sequence (i := .resolve) he,
    exec_sequence (i := .footer) he⟩

/-- Settles O33: LDHDR has no input stage to check first. -/
theorem shortImageRaised : Obligations.ShortImageRaised := fun _ he hlen =>
  ⟨exec_ldhdr_short he hlen, fun hv => ⟨exec_layout_short he hv hlen, exec_resolve_short he hv hlen⟩⟩

end Sys2Proof.Machine

namespace Sys2Proof.Machine

/-! ### What is left to a command over an unfilled image (70_reset R215) -/

section
variable {s t : State} {i : Instr}

/-- A command that needs the image passes its other checks and stops: the host has left a hole below FILE_LEN. -/
theorem exec_unfilled (he : s.status.err = false) (hv : inputValid s i = true) (hi : NeedsImage i)
    (hlen : 16 ≤ s.fileLen.toNat) (hf : imgFilled s = false) : exec i s = .fault .imgNotPlaced := by
  obtain rfl | rfl | rfl := hi
  · exact exec_ldhdr_unfilled he hlen hf
  · exact exec_layout_unfilled he hv hlen hf
  · exact exec_resolve_unfilled he hv hlen hf

/-- Over an unfilled image a command that needs it is ignored or records a fault: the checks before the image's are
all that can answer a next state. -/
theorem exec_unfilled_next (hi : NeedsImage i) (hf : imgFilled s = false) (h : exec i s = .next t) :
    (s.status.err = true ∧ t = s) ∨ ∃ f, t = raise f s := by
  have answer {u : State} (hu : exec i s = .next u) : t = u := Host.Outcome.next.inj (h.symm.trans hu)
  cases he : s.status.err with
  | true =>
    have hclr : i ≠ .clr := by rintro rfl; exact absurd hi (by simp [NeedsImage])
    exact .inl ⟨rfl, answer (exec_of_err he hclr)⟩
  | false =>
    right
    cases hv : inputValid s i with
    | false => exact ⟨_, answer (exec_sequence he hv)⟩
    | true =>
      obtain hlen | hlen := Nat.lt_or_ge s.fileLen.toNat 16
      · exact ⟨_, answer (exec_shortImage he hv hi hlen)⟩
      · rw [exec_unfilled he hv hi hlen hf] at h
        cases h

/-- A state with ERR 1 has nothing more to record. -/
theorem setErr_of_err (he : s.status.err = true) : s = { s with status := { s.status with err := true } } :=
  congrArg (fun e => { s with status := { s.status with err := e } }) he

end

/-- Settles O42: a state that is ignored or raised is the one before it with ERR 1 and an ERRCODE. -/
theorem unfilledImageCommandsNeverComplete : Obligations.UnfilledImageCommandsNeverComplete := by
  intro s t a i ha hhole hi h
  obtain ⟨he, rfl⟩ | ⟨f, rfl⟩ := exec_unfilled_next hi (imgFilled_of_hole ha hhole) h
  · exact ⟨he, setErr_of_err he⟩
  · exact ⟨rfl, rfl⟩

end Sys2Proof.Machine
